-- ==== Sys2Proof/Word.lean ====
section
/-! DEFINITION. The words of DHTSM: the widths of its registers, ports and formats (spec 00_scope.md
R6, R8; 10_state.md R10 to R27; 30_encoding.md R60). All quantities are unsigned. -/

namespace Sys2Proof

/-- A budget or a calibration value in ticks, `TW = 15` bits (R6; assumption 3): `timeout`, `T`,
`floor`, `margin` (R12, R18, R19). -/
abbrev Ticks := BitVec 15

/-- The countdown `cnt` (R13), `CW = TW + 1` bits, so that `2 * T` always fits (R6). -/
abbrev Count := BitVec 16

/-- One byte: `sh` and each `frame[i]` (R16, R17). -/
abbrev Byte := BitVec 8

/-- The number of bits received, `bitidx` (R15). -/
abbrev BitIndex := BitVec 6

/-- A reading in tenths: `hum`, `tmag` (R24, R26). -/
abbrev Tenths := BitVec 11

/-- The level of a one-bit signal: `true` is `1`, high, `H`; `false` is `0`, low, `L` (R8). -/
abbrev Level := Bool

end Sys2Proof
end

