-- ==== Sys2Proof/Syntax.lean ====
section
/-! DEFINITION. The syntax: one constructor of `Instr` per row of spec/opcode_table.json (30_encoding.md
R72), and the closed sets of names the spec defines: the nine states (R64), the six outcomes (R65), the
three sensor families (R61). -/

namespace Sys2Proof

/-- The sensor families, "a closed set of variants {Type11, Type21, Type22}" (R61). -/
inductive Family where
  | type11 | type21 | type22
  deriving DecidableEq, Repr, Inhabited

/-- The nine states of `st` (R10, R64). The unused codes 9 to 15 have no constructor (R73, U5). -/
inductive St where
  | idle | startPulse | releaseLine | awaitSensorLow | awaitAckHigh | awaitAckLow
  | bitLoop | validate | done
  deriving DecidableEq, Repr, Inhabited

/-- The six outcomes of `err` (R20, R65). The unused codes 6 and 7 have no constructor (R73, U5). -/
inductive ErrorKind where
  | ok | checksum | timeout | connect | ackLow | ackHigh
  deriving DecidableEq, Repr, Inhabited

/-- The thirteen rows of the opcode table (R72): four commands of format `CMD`, each with the
`timeout` operand of R61, and the nine state operations of format `STATE`. -/
inductive Instr where
  /-- Row `DECODE.T11` (R80). -/
  | decodeT11 (timeout : Ticks)
  /-- Row `DECODE.T21` (R80). -/
  | decodeT21 (timeout : Ticks)
  /-- Row `DECODE.T22` (R80). -/
  | decodeT22 (timeout : Ticks)
  /-- Row `CMD.RESERVED`, family code 3 (R83). -/
  | cmdReserved (timeout : Ticks)
  /-- Row `IDLE` (R80). -/
  | idle
  /-- Row `START_PULSE` (R90). -/
  | startPulse
  /-- Row `RELEASE_LINE` (R91). -/
  | releaseLine
  /-- Row `AWAIT_SENSOR_LOW` (R92). -/
  | awaitSensorLow
  /-- Row `AWAIT_ACK_HIGH` (R93). -/
  | awaitAckHigh
  /-- Row `AWAIT_ACK_LOW` (R94). -/
  | awaitAckLow
  /-- Row `BIT_LOOP` (R110). -/
  | bitLoop
  /-- Row `VALIDATE` (R131). -/
  | validate
  /-- Row `DONE` (R156). -/
  | done
  deriving DecidableEq, Repr, Inhabited

/-- An encoded operation, in the format it is looked up by (R60, R72): the command word
`{family[1:0], timeout[14:0]}` or the state code `st[3:0]`. -/
inductive FetchWord where
  | cmd   (word : BitVec 17)
  | state (code : BitVec 4)
  deriving DecidableEq, Repr

/-- Why a word decodes to no instruction. -/
inductive Reject where
  /-- `st` codes 9 to 15: unused, no behaviour is defined (R64, R73). -/
  | unusedStateCode
  deriving DecidableEq, Repr

end Sys2Proof
end

