-- ==== Sys2Proof/Decode.lean ====
section
/-! DEFINITION. The numeric codes, the decoder and the encoder (spec 30_encoding.md R60, R61, R64, R65,
R72; spec/opcode_table.json). -/

namespace Sys2Proof

/-! ## The codes -/

/-- `family[1:0]` of each family (R61). -/
def Family.code : Family → BitVec 2
  | .type11 => 0
  | .type21 => 1
  | .type22 => 2

/-- The family a two-bit code stands for; code 3 is reserved and stands for none (R61). -/
def Family.ofCode (code : BitVec 2) : Option Family :=
  if code = 0 then some .type11
  else if code = 1 then some .type21
  else if code = 2 then some .type22
  else none

/-- `st[3:0]` of each state (R64). -/
def St.code : St → BitVec 4
  | .idle => 0
  | .startPulse => 1
  | .releaseLine => 2
  | .awaitSensorLow => 3
  | .awaitAckHigh => 4
  | .awaitAckLow => 5
  | .bitLoop => 6
  | .validate => 7
  | .done => 8

/-- The state a four-bit code stands for; codes 9 to 15 are unused and stand for none (R64). -/
def St.ofCode (code : BitVec 4) : Option St :=
  match code.toNat with
  | 0 => some .idle
  | 1 => some .startPulse
  | 2 => some .releaseLine
  | 3 => some .awaitSensorLow
  | 4 => some .awaitAckHigh
  | 5 => some .awaitAckLow
  | 6 => some .bitLoop
  | 7 => some .validate
  | 8 => some .done
  | _ => none

/-- `err[2:0]` of each outcome (R65). -/
def ErrorKind.code : ErrorKind → BitVec 3
  | .ok => 0
  | .checksum => 1
  | .timeout => 2
  | .connect => 3
  | .ackLow => 4
  | .ackHigh => 5

/-! ## Decoding -/

/-- `family[1:0]`, bits 16:15 of the command word (R60, R72). -/
def cmdFamily (word : BitVec 17) : BitVec 2 := word.extractLsb' 15 2

/-- `timeout[14:0]`, bits 14:0 of the command word, taken as is (R60, R61). -/
def cmdTimeout (word : BitVec 17) : Ticks := word.extractLsb' 0 15

/-- The command word `{family, timeout}` (R60). -/
def cmdWord (family : BitVec 2) (timeout : Ticks) : BitVec 17 := family ++ timeout

/-- The command of a family code and a timeout (R61); code 3 is the row `CMD.RESERVED` (R72). -/
def commandOf (family : BitVec 2) (timeout : Ticks) : Instr :=
  match Family.ofCode family with
  | some .type11 => .decodeT11 timeout
  | some .type21 => .decodeT21 timeout
  | some .type22 => .decodeT22 timeout
  | none => .cmdReserved timeout

/-- The state operation of each state (R64). -/
def operationOf : St → Instr
  | .idle => .idle
  | .startPulse => .startPulse
  | .releaseLine => .releaseLine
  | .awaitSensorLow => .awaitSensorLow
  | .awaitAckHigh => .awaitAckHigh
  | .awaitAckLow => .awaitAckLow
  | .bitLoop => .bitLoop
  | .validate => .validate
  | .done => .done

/-- The decoder, total on every word (R72): each command word is one of the four `CMD` rows, each
state code 0 to 8 one of the nine `STATE` rows, and the codes 9 to 15 are rejected. -/
def decode : FetchWord → Except Reject Instr
  | .cmd word => .ok (commandOf (cmdFamily word) (cmdTimeout word))
  | .state code =>
    match St.ofCode code with
    | some st => .ok (operationOf st)
    | none => .error .unusedStateCode

/-! ## Encoding -/

/-- The encoder, from the same tables (R61, R64). -/
def encode : Instr → FetchWord
  | .decodeT11 timeout => .cmd (cmdWord 0 timeout)
  | .decodeT21 timeout => .cmd (cmdWord 1 timeout)
  | .decodeT22 timeout => .cmd (cmdWord 2 timeout)
  | .cmdReserved timeout => .cmd (cmdWord 3 timeout)
  | .idle => .state 0
  | .startPulse => .state 1
  | .releaseLine => .state 2
  | .awaitSensorLow => .state 3
  | .awaitAckHigh => .state 4
  | .awaitAckLow => .state 5
  | .bitLoop => .state 6
  | .validate => .state 7
  | .done => .state 8

/-! ## The opcode table and the host's numbering -/

/-- The `match` and `mask` columns of spec/opcode_table.json for the row of an instruction, as the
mask's words over the row's format (R72). -/
def tableRow : Instr → FetchWord × FetchWord
  | .decodeT11 _ => (.cmd 0x00000, .cmd 0x18000)
  | .decodeT21 _ => (.cmd 0x08000, .cmd 0x18000)
  | .decodeT22 _ => (.cmd 0x10000, .cmd 0x18000)
  | .cmdReserved _ => (.cmd 0x18000, .cmd 0x18000)
  | .idle => (.state 0x0, .state 0xF)
  | .startPulse => (.state 0x1, .state 0xF)
  | .releaseLine => (.state 0x2, .state 0xF)
  | .awaitSensorLow => (.state 0x3, .state 0xF)
  | .awaitAckHigh => (.state 0x4, .state 0xF)
  | .awaitAckLow => (.state 0x5, .state 0xF)
  | .bitLoop => (.state 0x6, .state 0xF)
  | .validate => (.state 0x7, .state 0xF)
  | .done => (.state 0x8, .state 0xF)

/-- A word fits a row when they have one format and agree on the bits of the mask. -/
def fitsRow : FetchWord → FetchWord × FetchWord → Bool
  | .cmd word, (.cmd value, .cmd mask) => word &&& mask == value
  | .state code, (.state value, .state mask) => code &&& mask == value
  | _, _ => false

/-- The operand a word carries outside its row's mask: the timeout in bits 14:0 of a `CMD` word, none in
a `STATE` word (R61, R72). -/
def FetchWord.operand : FetchWord → Option Ticks
  | .cmd word => some (word.setWidth 15)
  | .state _ => none

/-- The operand of an instruction: the timeout of a command (R61). -/
def Instr.operand : Instr → Option Ticks
  | .decodeT11 timeout => some timeout
  | .decodeT21 timeout => some timeout
  | .decodeT22 timeout => some timeout
  | .cmdReserved timeout => some timeout
  | .idle => none
  | .startPulse => none
  | .releaseLine => none
  | .awaitSensorLow => none
  | .awaitAckHigh => none
  | .awaitAckLow => none
  | .bitLoop => none
  | .validate => none
  | .done => none

/-- The word of `nbits` bits the table numbers as `w` (assumption 12): a row of the table's `STATE`
format is one byte whose bits 3:0 are the code; every longer row is a `CMD` word in bits 16:0. -/
def tableWord (nbits w : Nat) : FetchWord :=
  if nbits ≤ 8 then .state (BitVec.ofNat 4 w) else .cmd (BitVec.ofNat 17 w)

/-- The instruction the decoder reads from a word of the opcode table. -/
def decodeTableWord (nbits w : Nat) : Option Instr :=
  match decode (tableWord nbits w) with
  | .ok i => some i
  | .error _ => none

end Sys2Proof
end

