-- ==== Sys2Proof/Config.lean ====
section
/-! DEFINITION. What is not state of DHTSM: the static instance parameter `PIN` and the levels of the
input ports, which the other agents choose (spec 00_scope.md R5, R6; 10_state.md R30, R32 to R34). -/

namespace Sys2Proof

/-- The levels of every input port of DHTSM at ONE rising edge of `clk` (R30, R32, R33, R34).
`clk` itself has no field: one step of the model is one rising edge (R5). -/
structure Inputs where
  /-- `rst`, active high, synchronous (R34). -/
  rst       : Level
  /-- `start`, a level: the host's START request (R30). -/
  start     : Level
  /-- `family[1:0]` (R30, R61). -/
  family    : BitVec 2
  /-- `timeout[TW-1:0]` (R30, R61). -/
  timeout   : Ticks
  /-- `pin_in`, the level of the wire (R32, R41). -/
  pinIn     : Level
  /-- `delay_done`, the delay collaborator's answer (R33). -/
  delayDone : Level
  deriving DecidableEq, Repr, Inhabited

/-- `PIN`, the static parameter of the instance; no rule depends on its value (R6, R85; D27). -/
opaque Config.PIN : Nat

/-- FREE VALUE: the levels of the input ports at clock edge number `n`, counted from the state the
machine was launched in, wherever the state does not list them. The line is an oracle under no law,
and the host and the delay collaborator choose their ports freely (R5, R41; assumption 1). -/
opaque Config.freeInputs : Nat → Inputs

end Sys2Proof
end

