-- ==== Sys2Proof/Machine/State.lean ====
section
/-! DEFINITION. The state (spec 10_state.md): the registers of DHTSM, which are its complete state (R10
to R27, "There is no other state"), and beside them the environment the model needs to be one
deterministic step function: what the other three agents will put on the input ports. -/

namespace Sys2Proof.Machine

/-- The frame store: the five byte registers `frame[0..4]` (R17, R38). -/
structure Frame where
  b0 : Byte
  b1 : Byte
  b2 : Byte
  b3 : Byte
  b4 : Byte
  deriving DecidableEq, Repr

/-- Every register of DHTSM (R10 to R20, R24 to R27, table of R36). -/
structure Regs where
  /-- `st`: the state register (R10). -/
  st     : St
  /-- `fam`: the family of the running attempt (R11). -/
  fam    : Family
  /-- `T`: the timeout budget of the running attempt (R12). -/
  T      : Ticks
  /-- `cnt`: the countdown, the source's `remainingTicks` (R13). -/
  cnt    : Count
  /-- `prev`: the sample of the previous `BIT_LOOP` tick (R14). -/
  prev   : Level
  /-- `bitidx`: the number of bits received (R15). -/
  bitidx : BitIndex
  /-- `sh`: the byte under assembly (R16). -/
  sh     : Byte
  /-- `frame[0..4]` (R17). -/
  frame  : Frame
  /-- `floor`: the source's `shortPulseFloor` (R18). -/
  floor  : Ticks
  /-- `margin`: the classification margin (R19). -/
  margin : Ticks
  /-- `err`: the result code (R20). -/
  err    : ErrorKind
  /-- `hum`: humidity in tenths of a percent (R24). -/
  hum    : Tenths
  /-- `tneg`: the temperature sign flag (R25). -/
  tneg   : Level
  /-- `tmag`: temperature magnitude in tenths of a degree (R26). -/
  tmag   : Tenths
  /-- `pin_oe`: 1 while the line is driven low (R27). -/
  pinOe  : Level
  deriving DecidableEq, Repr

/-- The environment: the model's own fields, no registers of DHTSM (assumptions 1, 2, 4). -/
structure Env where
  /-- The levels of the input ports at the coming clock edges, the next edge first; at the edges
  beyond its end they are the free values `Config.freeInputs`. -/
  inputs : List Inputs
  /-- How many clock edges have passed: the index of the free value of the next edge. -/
  edge   : Nat
  /-- Set for ever once the host has issued a command that the spec tells a model to refuse and mark
  the run for (R83, R84; U3, U4): no claim is drawn from a marked run. -/
  marked : Bool
  deriving DecidableEq, Repr

/-- The machine: DHTSM's registers and its environment. -/
structure State where
  regs : Regs
  env  : Env
  deriving DecidableEq, Repr

/-- Why the machine stops with a fault. -/
inductive Fault where
  /-- Raised by `BIT_LOOP` alone, at an edge tick that completes a byte whose index
  `bitidx div 8` is 5, 6 or 7: the frame store has bytes 0 to 4 only (R38). No state that meets
  the invariants of R37 raises it. SAFE: the machine stops where the spec gives no behaviour. -/
  | noSuchFrameByte
  deriving DecidableEq, Repr

/-- Why the machine refuses. -/
inductive Refusal where
  /-- Answered by an arm of `exec` whose instruction has no meaning yet (there is none). SAFE. -/
  | notModelled (mnemonic : String)
  /-- Answered by `step` where the fetched state code is unused, 9 to 15 (R73, U5: refuse any state
  with `st > 8`). `St` has no such state, so no step answers it. SAFE. -/
  | unusedStateCode
  deriving DecidableEq, Repr

/-- The reset column of R36. -/
def Regs.reset : Regs where
  st     := .idle
  fam    := .type11
  T      := 0
  cnt    := 0
  prev   := false
  bitidx := 0
  sh     := 0
  frame  := { b0 := 0, b1 := 0, b2 := 0, b3 := 0, b4 := 0 }
  floor  := 0
  margin := 0
  err    := .ok
  hum    := 0
  tneg   := false
  tmag   := 0
  pinOe  := false

/-- The machine right after reset (R36, R180): the registers at their reset values, no input level
listed, no edge passed, the run unmarked (the environment's three are assumption 2's). -/
def State.reset : State where
  regs := Regs.reset
  env  := { inputs := [], edge := 0, marked := false }

end Sys2Proof.Machine
end

