-- ==== Sys2Proof/Machine/Operands.lean ====
section
/-! DEFINITION. Operands: the family functions (30_encoding.md R62), the input ports at the present
clock edge (10_state.md R30, R32, R33; 20_memory.md R41), the frame store by byte index (20_memory.md
R44) and the small arithmetic of 00_scope.md R8. -/

namespace Sys2Proof.Machine

/-! ## The family functions (R62) -/

/-- `NLZ(fam)`: how many leading bits calibrate. -/
def nlz : Family → Nat
  | .type11 => 1
  | .type21 => 6
  | .type22 => 6

/-- `WAKE_MS(fam)`: the length of the wake-up pulse in milliseconds. -/
def wakeMs : Family → BitVec 5
  | .type11 => 18
  | .type21 => 1
  | .type22 => 1

/-! ## The input ports -/

/-- The levels of the input ports `k` clock edges after the next one: listed, or else free. -/
def Env.inputAt (e : Env) (k : Nat) : Inputs :=
  match e.inputs[k]? with
  | some x => x
  | none => Config.freeInputs (e.edge + k)

/-- The levels of the input ports at the present clock edge. -/
def State.now (s : State) : Inputs := s.env.inputAt 0

/-- `Sample()`: the level of `pin_in` at this clock edge, raw, without side effect (R41). -/
def State.sample (s : State) : Level := s.now.pinIn

/-! ## Sets of states -/

/-- `IDLE` and `DONE`, the two states in which `start` is read (R30, R81). -/
def resting : St → Bool
  | .idle | .done => true
  | .startPulse | .releaseLine | .awaitSensorLow | .awaitAckHigh | .awaitAckLow
  | .bitLoop | .validate => false

/-- The four polling states, which consume a sample at every tick (R7, R64). -/
def polling : St → Bool
  | .awaitSensorLow | .awaitAckHigh | .awaitAckLow | .bitLoop => true
  | .idle | .startPulse | .releaseLine | .validate | .done => false

/-! ## The frame store by byte index -/

/-- `frame[i]`; there is no byte 5 or above (R38). -/
def Frame.get (f : Frame) : Nat → Option Byte
  | 0 => some f.b0
  | 1 => some f.b1
  | 2 => some f.b2
  | 3 => some f.b3
  | 4 => some f.b4
  | _ => none

/-- `frame[i] <- v`: one whole byte (R44). No byte has an index of 5 or above, and `execBitLoop`
faults before it writes one. -/
def Frame.set (f : Frame) (i : Nat) (v : Byte) : Frame :=
  match i with
  | 0 => { f with b0 := v }
  | 1 => { f with b1 := v }
  | 2 => { f with b2 := v }
  | 3 => { f with b3 := v }
  | 4 => { f with b4 := v }
  | _ => f

/-- `frame_o = {frame[0], frame[1], frame[2], frame[3], frame[4]}` (R31, R45). -/
def Frame.word (f : Frame) : BitVec 40 := f.b0 ++ f.b1 ++ f.b2 ++ f.b3 ++ f.b4

/-- `bitidx div 8 = bitidx[5:3]`: the frame byte being filled (R15). -/
def Regs.byteIndex (r : Regs) : Nat := r.bitidx.toNat / 8

/-- `bitidx mod 8 = bitidx[2:0]`: the number of bits already in `sh` (R15). -/
def Regs.bitInByte (r : Regs) : Nat := r.bitidx.toNat % 8

/-! ## Arithmetic -/

/-- `div4(v) = floor(v / 4)` (R8). -/
def div4 (v : Nat) : Nat := v / 4

/-- `T` as a count: `cnt <- T` (R13). -/
def Regs.budget (r : Regs) : Count := r.T.setWidth 16

/-- `2 * T`, exact in `CW` bits (R91, R138). -/
def Regs.doubleBudget (r : Regs) : Count := BitVec.ofNat 16 (2 * r.T.toNat)

/-- `{sh[6:0], b}` (R68). -/
def shiftIn (sh : Byte) (b : Level) : Byte := sh.extractLsb' 0 7 ++ BitVec.ofBool b

end Sys2Proof.Machine
end

