-- ==== Sys2Proof/Machine/Flags.lean ====
section
/-! DEFINITION. The tests the block computes: falling edge (42_bitloop.md R112), classification (R115,
R116), checksum (43_validate_decode.md R132), and the result flags, which are functions of the state
(10_state.md R21 to R23). -/

namespace Sys2Proof.Machine

/-- The edge detector: previous sample high, current sample low (R112). -/
def fallingEdge (prev sample : Level) : Bool := prev && !sample

/-- The bit awaited lies in the calibration region: `bitidx < NLZ(fam)` (R113). -/
def Regs.calibrating (r : Regs) : Bool := decide (r.bitidx.toNat < nlz r.fam)

/-- `Classify(rem)` with `rem = cnt`: over the integers, never modulo a power of two (R115, R116). -/
def Regs.classify (r : Regs) : Bool := decide (r.cnt.toNat + r.margin.toNat ≤ r.floor.toNat)

/-- `frame[0] + frame[1] + frame[2] + frame[3]`, an integer that needs ten bits (R132). -/
def Frame.sum (f : Frame) : BitVec 10 :=
  f.b0.setWidth 10 + f.b1.setWidth 10 + f.b2.setWidth 10 + f.b3.setWidth 10

/-- `Checksum_ok`: `sum[7:0] = frame[4]`, over the bytes as received (R132). -/
def Frame.checksumOk (f : Frame) : Bool := f.sum.extractLsb' 0 8 == f.b4

/-- `busy = (st != IDLE and st != DONE)` (R21). -/
def Regs.busy (r : Regs) : Bool := !resting r.st

/-- `done = (st = DONE)` (R21). -/
def Regs.isDone (r : Regs) : Bool := r.st == .done

/-- The timeout-class errors, `Connect`, `AckLow`, `AckHigh`, `Timeout` (R9, R155). -/
def timeoutClass : ErrorKind → Bool
  | .timeout | .connect | .ackLow | .ackHigh => true
  | .ok | .checksum => false

/-- `frame_valid = (st = DONE and (err = Ok or err = Checksum))` (R22). -/
def Regs.frameValid (r : Regs) : Bool := r.isDone && (r.err == .ok || r.err == .checksum)

/-- `reading_valid = (st = DONE and err = Ok)` (R23). -/
def Regs.readingValid (r : Regs) : Bool := r.isDone && r.err == .ok

end Sys2Proof.Machine
end

