-- ==== Sys2Proof/Machine/Ops.lean ====
section
/-! DEFINITION. The shared operations: writing registers and the wire, the clock edge's end, raising an
error and the next command after it (60_exceptions.md R152, R159), accepting a command (40_command.md
R80), one tick of a polling state (41_handshake.md R92 to R95). -/

namespace Sys2Proof.Machine

/-! ## The state as a whole -/

/-- Every register write of a step at once (R8, R47). -/
def State.setRegs (s : State) (r : Regs) : State := { s with regs := r }

/-- Mark the run: the host issued a command that the spec tells a model to refuse (R83, R84; U3, U4;
assumption 4). No register changes. -/
def State.mark (s : State) : State := { s with env := { s.env with marked := true } }

/-- The clock edge is over: its input levels are consumed (R49; assumption 2). -/
def State.tick (s : State) : State :=
  { s with env := { s.env with inputs := s.env.inputs.tail, edge := s.env.edge + 1 } }

/-- The reset step: every register takes its reset value (R36, R180). -/
def State.resetRegs (s : State) : State := s.setRegs Regs.reset

/-! ## The wire -/

/-- `Drive(oe)`: `pin_oe <- oe` (R42). -/
def Regs.drive (r : Regs) (oe : Level) : Regs := { r with pinOe := oe }

/-! ## The error exit and what follows it -/

/-- `raise k`, the counterpart of taking an exception: `err <- code(k); st <- DONE`, and nothing else
(R8, R152). The other writes of the raising step are the caller's. -/
def Regs.raise (r : Regs) (k : ErrorKind) : Regs := { r with err := k, st := .done }

/-- What an accepted START writes into EVERY register (R36, START column; R80). It is also the only
continuation after an error: there is no return (R159). -/
def Regs.started (family : Family) (timeout : Ticks) : Regs :=
  Regs.drive { Regs.reset with fam := family, T := timeout, st := .startPulse } true

/-- A DECODE command of a legal family. At rest it starts an attempt (R80, R81), but a timeout of 0
starts nothing and marks the run (R84); while busy it is not seen (R82). -/
def State.decodeCommand (s : State) (family : Family) (timeout : Ticks) : State :=
  if resting s.regs.st then
    if timeout = 0 then s.mark else s.setRegs (Regs.started family timeout)
  else s

/-- A command of the reserved family code: at rest no register changes and the run is marked (R83);
while busy it is not seen (R82). -/
def State.reservedCommand (s : State) : State :=
  if resting s.regs.st then s.mark else s

/-- What the resting states do at a clock edge: nothing without `start`, else the command on the ports
(R80, R81, R83, R84, R156). -/
def State.acceptPorts (s : State) : State :=
  if s.now.start then
    match Family.ofCode s.now.family with
    | some family => s.decodeCommand family s.now.timeout
    | none => s.reservedCommand
  else s

/-! ## One tick of a polling state -/

/-- A tick that does not bring the awaited event: it costs one unit of budget, and the decrement that
reaches zero raises the state's error (R92 to R95, R119; D6). -/
def Regs.miss (r : Regs) (k : ErrorKind) : Regs :=
  if r.cnt - 1 = 0 then Regs.raise { r with cnt := 0 } k
  else { r with cnt := r.cnt - 1 }

/-- One tick of a handshake wait for `level`: the sample is examined before the budget (R95, R157). -/
def Regs.await (r : Regs) (level sample : Level) (next : St) (k : ErrorKind) : Regs :=
  if sample = level then { r with cnt := r.budget, st := next } else r.miss k

end Sys2Proof.Machine
end

