-- ==== Sys2Proof/Machine/BitLoop.lean ====
section
/-! DEFINITION. The family "bit loop" (spec 42_bitloop.md): `BIT_LOOP`, its calibration, classifier and bit
assembler (R110 to R119). -/

namespace Sys2Proof.Machine

/-- `Calibrate(rem)` with `rem = cnt`: the floor is a maximum, the margin a quarter of what is left of
the budget (R113). On states that meet R37 nothing here underflows or is cut (R138; assumption 9). -/
def Regs.calibrate (r : Regs) : Regs :=
  let f := max r.floor.toNat r.cnt.toNat
  { r with floor := BitVec.ofNat 15 f, margin := BitVec.ofNat 15 (div4 (r.T.toNat - f)) }

/-- `Assemble(b)` (R117): shift the bit in; every eighth bit stores the completed byte. -/
def Regs.assemble (r : Regs) (b : Level) : Regs :=
  let v := shiftIn r.sh b
  if r.bitInByte = 7 then
    { r with frame := r.frame.set r.byteIndex v, sh := 0, bitidx := r.bitidx + 1 }
  else
    { r with sh := v, bitidx := r.bitidx + 1 }

/-- The bit an edge tick receives: a calibration bit is 0, a data bit is classified (R110, R114). -/
def Regs.receivedBit (r : Regs) : Level := !r.calibrating && r.classify

/-- The calibration registers after an edge tick: only a calibration bit changes them (R113, R115). -/
def Regs.measured (r : Regs) : Regs := if r.calibrating then r.calibrate else r

/-- An edge tick: cell number `bitidx` has ended (R110, R111, R118). -/
def Regs.endCell (r : Regs) : Regs :=
  { r.measured.assemble r.receivedBit with
    cnt := r.budget
    st  := if r.bitidx.toNat + 1 = 40 then .validate else r.st }

/-- One tick of the bit loop (R110): either an edge or one unit of budget, never both. -/
def Regs.bitTick (r : Regs) (sample : Level) : Regs :=
  { (if fallingEdge r.prev sample then r.endCell else r.miss .timeout) with prev := sample }

/-- This tick would write a frame byte that does not exist: only a state outside R37 has one (R38;
assumption 10). -/
def Regs.writesOutsideFrame (r : Regs) (sample : Level) : Bool :=
  fallingEdge r.prev sample && r.bitInByte == 7 && decide (4 < r.byteIndex)

/-- `BIT_LOOP` (R110). -/
def execBitLoop (s : State) : Host.Outcome State Fault Refusal :=
  if s.regs.writesOutsideFrame s.sample then .fault .noSuchFrameByte
  else .next (s.setRegs (s.regs.bitTick s.sample))

end Sys2Proof.Machine
end

