-- ==== Sys2Proof/Machine/Command.lean ====
section
/-! DEFINITION. The family "commands" (spec 40_command.md): the four `CMD` rows, and the resting states
`IDLE` and `DONE` as command acceptors (R80 to R84, R156). -/

namespace Sys2Proof.Machine

/-- `DECODE.T11` (R80, R81, R82, R84). -/
def execDecodeT11 (timeout : Ticks) (s : State) : Host.Outcome State Fault Refusal :=
  .next (s.decodeCommand .type11 timeout)

/-- `DECODE.T21` (R80, R81, R82, R84). -/
def execDecodeT21 (timeout : Ticks) (s : State) : Host.Outcome State Fault Refusal :=
  .next (s.decodeCommand .type21 timeout)

/-- `DECODE.T22` (R80, R81, R82, R84). -/
def execDecodeT22 (timeout : Ticks) (s : State) : Host.Outcome State Fault Refusal :=
  .next (s.decodeCommand .type22 timeout)

/-- `CMD.RESERVED` (R83): no register changes, whatever the timeout is. -/
def execCmdReserved (_timeout : Ticks) (s : State) : Host.Outcome State Fault Refusal :=
  .next s.reservedCommand

/-- `IDLE` (R80, R83, R84). -/
def execIdle (s : State) : Host.Outcome State Fault Refusal :=
  .next s.acceptPorts

/-- `DONE`, the resting state after an attempt (R81, R156). -/
def execDone (s : State) : Host.Outcome State Fault Refusal :=
  .next s.acceptPorts

end Sys2Proof.Machine
end

