-- ==== Sys2Proof/Machine/Handshake.lean ====
section
/-! DEFINITION. The family "handshake" (spec 41_handshake.md): `START_PULSE`, `RELEASE_LINE` and the three
waits (R90 to R95). -/

namespace Sys2Proof.Machine

/-- `START_PULSE` on the registers (R90): it ends at the first edge with `delay_done = 1`. -/
def Regs.holdPulse (r : Regs) (delayDone : Level) : Regs :=
  if delayDone then { r with st := .releaseLine } else { r with st := .startPulse }

/-- `RELEASE_LINE` on the registers (R91). -/
def Regs.release (r : Regs) : Regs :=
  { r.drive false with cnt := r.doubleBudget, st := .awaitSensorLow }

/-- `AWAIT_ACK_LOW` on the registers (R94): the low sample it awaits also primes the edge detector. -/
def Regs.awaitFirstCell (r : Regs) (sample : Level) : Regs :=
  if sample = false then { r with cnt := r.budget, prev := false, st := .bitLoop }
  else r.miss .ackHigh

/-- `START_PULSE` (R90). -/
def execStartPulse (s : State) : Host.Outcome State Fault Refusal :=
  .next (s.setRegs (s.regs.holdPulse s.now.delayDone))

/-- `RELEASE_LINE` (R91). -/
def execReleaseLine (s : State) : Host.Outcome State Fault Refusal :=
  .next (s.setRegs s.regs.release)

/-- `AWAIT_SENSOR_LOW` (R92). -/
def execAwaitSensorLow (s : State) : Host.Outcome State Fault Refusal :=
  .next (s.setRegs (s.regs.await false s.sample .awaitAckHigh .connect))

/-- `AWAIT_ACK_HIGH` (R93). -/
def execAwaitAckHigh (s : State) : Host.Outcome State Fault Refusal :=
  .next (s.setRegs (s.regs.await true s.sample .awaitAckLow .ackLow))

/-- `AWAIT_ACK_LOW` (R94). -/
def execAwaitAckLow (s : State) : Host.Outcome State Fault Refusal :=
  .next (s.setRegs (s.regs.awaitFirstCell s.sample))

end Sys2Proof.Machine
end

