-- ==== Sys2Proof/Machine/Validate.lean ====
section
/-! DEFINITION. The family "validate and decode" (spec 43_validate_decode.md): `VALIDATE`, with the field
decoder in its two variants (R131 to R136). -/

namespace Sys2Proof.Machine

/-- `Decode11(frame)` (R134): whole units in seven bits, times ten. -/
def Regs.decode11 (r : Regs) : Regs :=
  { r with
    hum  := 10 * (r.frame.b0 &&& 0x7F).setWidth 11
    tneg := false
    tmag := 10 * (r.frame.b2 &&& 0x7F).setWidth 11 }

/-- `Decode2x(frame)` (R135, R136): the masks act on copies, and the temperature is sign-magnitude. -/
def Regs.decode2x (r : Regs) : Regs :=
  { r with
    hum  := (r.frame.b0 &&& 0x03).setWidth 11 * 256 + r.frame.b1.setWidth 11
    tneg := (r.frame.b2 &&& 0x83).getLsbD 7
    tmag := ((r.frame.b2 &&& 0x83) &&& 0x7F).setWidth 11 * 256 + r.frame.b3.setWidth 11 }

/-- The field decoder of the attempt's family (R62, R131). -/
def Regs.decodeFields (r : Regs) : Regs :=
  match r.fam with
  | .type11 => r.decode11
  | .type21 => r.decode2x
  | .type22 => r.decode2x

/-- The verdict on the frame (R131, R132). -/
def Frame.verdict (f : Frame) : ErrorKind := if f.checksumOk then .ok else .checksum

/-- `VALIDATE` (R131): the fields are decoded whether or not the checksum holds. -/
def execValidate (s : State) : Host.Outcome State Fault Refusal :=
  .next (s.setRegs (s.regs.decodeFields.raise s.regs.frame.verdict))

end Sys2Proof.Machine
end

