-- ==== Sys2Proof/Machine/Dispatch.lean ====
section
/-! DEFINITION. One arm per row of spec/opcode_table.json (30_encoding.md R72). -/

namespace Sys2Proof.Machine

def exec (i : Instr) (s : State) : Host.Outcome State Fault Refusal :=
  match i with
  | .decodeT11 timeout => Sys2Proof.Machine.execDecodeT11 timeout s
  | .decodeT21 timeout => Sys2Proof.Machine.execDecodeT21 timeout s
  | .decodeT22 timeout => Sys2Proof.Machine.execDecodeT22 timeout s
  | .cmdReserved timeout => Sys2Proof.Machine.execCmdReserved timeout s
  | .idle => Sys2Proof.Machine.execIdle s
  | .startPulse => Sys2Proof.Machine.execStartPulse s
  | .releaseLine => Sys2Proof.Machine.execReleaseLine s
  | .awaitSensorLow => Sys2Proof.Machine.execAwaitSensorLow s
  | .awaitAckHigh => Sys2Proof.Machine.execAwaitAckHigh s
  | .awaitAckLow => Sys2Proof.Machine.execAwaitAckLow s
  | .bitLoop => Sys2Proof.Machine.execBitLoop s
  | .validate => Sys2Proof.Machine.execValidate s
  | .done => Sys2Proof.Machine.execDone s

end Sys2Proof.Machine
end

