-- ==== Sys2Proof/Machine/Fetch.lean ====
section
/-! DEFINITION. Which row of the opcode table a clock edge looks up (30_encoding.md R61, R72), and how a
word is put where the next clock edge looks it up (assumption 11). -/

namespace Sys2Proof.Machine

/-- The word looked up at a clock edge with `rst = 0`: at rest with `start = 1` the command on the host
ports, otherwise the state code (R72; assumption 7). -/
def State.fetchWord (s : State) : FetchWord :=
  if resting s.regs.st && s.now.start then .cmd (cmdWord s.now.family s.now.timeout)
  else .state s.regs.st.code

/-- The levels of the next edge, or where none is listed a quiet edge: no reset, no request, the line
pulled up, no answer of the delay collaborator (assumption 11). -/
def Env.nextOrQuiet (e : Env) : Inputs :=
  match e.inputs with
  | x :: _ => x
  | [] => { rst := false, start := false, family := 0, timeout := 0, pinIn := true, delayDone := false }

/-- The same environment with the levels of the next edge replaced. -/
def Env.withNext (e : Env) (x : Inputs) : Env := { e with inputs := x :: e.inputs.tail }

/-- Present a command on the host ports for the next edge, to a block at rest: a busy one is put to
`IDLE`. -/
def State.presentCommand (s : State) (word : BitVec 17) : State :=
  { regs := { s.regs with st := if resting s.regs.st then s.regs.st else .idle }
    env  := s.env.withNext
      { s.env.nextOrQuiet with
        rst := false, start := true, family := cmdFamily word, timeout := cmdTimeout word } }

/-- Put the block in the state of a code, with no request and no reset at the next edge. An unused code
can not be put into `st` (R73) and changes nothing. -/
def State.enterState (s : State) (code : BitVec 4) : State :=
  match St.ofCode code with
  | some st =>
    { regs := { s.regs with st := st }
      env  := s.env.withNext { s.env.nextOrQuiet with rst := false, start := false } }
  | none => s

/-- Place a word where the next step looks its instruction up. -/
def State.placeWord (s : State) : FetchWord → State
  | .cmd word => s.presentCommand word
  | .state code => s.enterState code

end Sys2Proof.Machine
end

