-- ==== Sys2Proof/Machine/Step.lean ====
section
/-! DEFINITION. One step: one rising edge of `clk` (00_scope.md R5; 10_state.md R34). -/

namespace Sys2Proof.Machine

/-- One rising edge of `clk`. `rst = 1` overrides every other rule (R157, R180); otherwise the row that
the edge looks up runs on the levels of this edge (R72). Either way the edge's levels are consumed. -/
def step (s : State) : Host.Outcome State Fault Refusal :=
  if s.now.rst then .next s.resetRegs.tick
  else
    match decode s.fetchWord with
    | .ok i =>
      match exec i s with
      | .next s' => .next s'.tick
      | .fault r => .fault r
      | .refused r => .refused r
    | .error .unusedStateCode => .refused .unusedStateCode

/-- `s` with an instruction word of the opcode table placed where the next step looks it up: a `CMD`
word on the host ports, a `STATE` code in `st` (assumption 11). -/
def State.withFetchWord (s : State) (nbits w : Nat) : State := s.placeWord (tableWord nbits w)

end Sys2Proof.Machine
end

