-- ==== Sys2Proof/Machine/Ports.lean ====
section
/-! DEFINITION. The output ports, all functions of the registers (spec 10_state.md R31 to R33; 93 U1, U2). -/

namespace Sys2Proof.Machine

/-- Every output port of DHTSM at one clock edge. The four result ports that are unspecified to the
observer after a timeout-class error are absent then (R31, U1; assumption 6). -/
structure Outputs where
  /-- `busy` (R21). -/
  busy         : Level
  /-- `done` (R21). -/
  done         : Level
  /-- `err[2:0]` (R31). -/
  err          : BitVec 3
  /-- `frame_valid` (R22). -/
  frameValid   : Level
  /-- `reading_valid` (R23). -/
  readingValid : Level
  /-- `frame_o[39:0]` (R31). -/
  frameO       : Option (BitVec 40)
  /-- `hum_o[10:0]` (R31, R70). -/
  humO         : Option Tenths
  /-- `tneg_o` (R31, R70). -/
  tnegO        : Option Level
  /-- `tmag_o[10:0]` (R31, R70). -/
  tmagO        : Option Tenths
  /-- The pin the GPIO collaborator is asked to act on: the static parameter (R6, R85). -/
  pin          : Nat
  /-- `pin_oe` (R27, R32). -/
  pinOe        : Level
  /-- `pin_out`, constant 0 (R32). -/
  pinOut       : Level
  /-- `pin_pull = not pin_oe` (R32). -/
  pinPull      : Level
  /-- `delay_req = (st = START_PULSE)` (R33). -/
  delayReq     : Level
  /-- `delay_ms[4:0] = WAKE_MS(fam)` (R33). -/
  delayMs      : BitVec 5
  deriving DecidableEq, Repr

/-- The result is unspecified to the observer: `done = 1` and `err` is timeout-class (R31, R155, U1). -/
def Regs.resultUnspecified (r : Regs) : Bool := r.isDone && timeoutClass r.err

/-- A result port: absent where the result is unspecified, else the register behind it (R31). -/
def Regs.resultPort {α : Type} (r : Regs) (v : α) : Option α :=
  if r.resultUnspecified then none else some v

/-- The output ports of the block (R31, R32, R33). -/
def Regs.outputs (r : Regs) : Outputs where
  busy         := r.busy
  done         := r.isDone
  err          := r.err.code
  frameValid   := r.frameValid
  readingValid := r.readingValid
  frameO       := r.resultPort r.frame.word
  humO         := r.resultPort r.hum
  tnegO        := r.resultPort r.tneg
  tmagO        := r.resultPort r.tmag
  pin          := Config.PIN
  pinOe        := r.pinOe
  pinOut       := false
  pinPull      := !r.pinOe
  delayReq     := r.st == .startPulse
  delayMs      := wakeMs r.fam

/-- The `FRAME`-independent part of the reading as one word: the `READING` format
`{hum[10:0], tneg, tmag[10:0]}` (R60, R70). -/
def Regs.readingWord (r : Regs) : BitVec 23 := r.hum ++ BitVec.ofBool r.tneg ++ r.tmag

/-- The humidity the reading denotes, in percent: the exact rational `hum / 10` (R24, R139). -/
def Regs.humidity (r : Regs) : Rat := (r.hum.toNat : Rat) / 10

/-- The temperature the reading denotes, in degrees: the exact rational `(-1)^tneg * tmag / 10`
(R26, R139). -/
def Regs.temperature (r : Regs) : Rat :=
  (if r.tneg then -(r.tmag.toNat : Rat) else (r.tmag.toNat : Rat)) / 10

end Sys2Proof.Machine
end

