-- ==== Sys2Proof/WellFormed.lean ====
section
/-! DEFINITION. Well-formed instructions: the encodings outside R73's list of reserved and illegal ones
(30_encoding.md R61, R73). -/

namespace Sys2Proof

/-- An instruction the spec gives as legal: a DECODE command has a timeout other than 0 (R73, R84),
and the reserved family code is no legal command (R73, R83). Every state operation is legal. -/
def Instr.wellFormed : Instr → Bool
  | .decodeT11 timeout => timeout != 0
  | .decodeT21 timeout => timeout != 0
  | .decodeT22 timeout => timeout != 0
  | .cmdReserved _ => false
  | .idle => true
  | .startPulse => true
  | .releaseLine => true
  | .awaitSensorLow => true
  | .awaitAckHigh => true
  | .awaitAckLow => true
  | .bitLoop => true
  | .validate => true
  | .done => true

end Sys2Proof
end

