-- ==== Sys2Proof/Safety.lean ====
section
/-! DEFINITION. What a safe run is, in the terms the claims use: the invariants of 10_state.md R37, what an
outcome says about the registers behind it (60_exceptions.md R150 to R155), the runs that support claims
(R83, R84; U3, U4), and the vocabulary of claims about several clock edges. -/

namespace Sys2Proof.Machine

/-! ## The invariants of R37 -/

/-- The invariants of R37, by item, and two more that make them inductive (`partialByte`, `edgeBudget`).
Item 1 is the type `St`; item 10 follows from items 2, 3 and 6. -/
structure Regs.Inv (r : Regs) : Prop where
  /-- Item 2: a polling state has budget left. -/
  budgetLeft   : polling r.st = true → 1 ≤ r.cnt.toNat
  /-- Item 2: the first wait has at most `2 * T`. -/
  doubleBudget : r.st = .awaitSensorLow → r.cnt.toNat ≤ 2 * r.T.toNat
  /-- Item 2: the other polling states have at most `T`. -/
  singleBudget : r.st = .awaitAckHigh ∨ r.st = .awaitAckLow ∨ r.st = .bitLoop →
    r.cnt.toNat ≤ r.T.toNat
  /-- Item 3 (`fam` is a legal family by its type). -/
  timeoutLegal : r.st ≠ .idle → 1 ≤ r.T.toNat
  /-- Item 4. -/
  bitidxMax    : r.bitidx.toNat ≤ 40
  /-- Item 4. -/
  bitidxLoop   : r.st = .bitLoop → r.bitidx.toNat ≤ 39
  /-- Item 4. -/
  bitidxStart  : r.st = .startPulse ∨ r.st = .releaseLine ∨ r.st = .awaitSensorLow ∨
    r.st = .awaitAckHigh ∨ r.st = .awaitAckLow → r.bitidx = 0
  /-- Item 4. -/
  bitidxEnd    : r.st = .validate → r.bitidx.toNat = 40
  /-- Item 5. -/
  shBound      : r.sh.toNat < 2 ^ r.bitInByte
  /-- Item 6. -/
  calibrated   : 1 ≤ r.bitidx.toNat →
    r.floor.toNat + 1 ≤ r.T.toNat ∧ r.margin.toNat = div4 (r.T.toNat - r.floor.toNat)
  /-- Item 6. -/
  uncalibrated : r.bitidx = 0 → r.floor = 0 ∧ r.margin = 0
  /-- Item 7. -/
  frameEmpty   : ∀ i v, r.byteIndex ≤ i → r.frame.get i = some v → v = 0
  /-- Item 8. -/
  leadingZeros : r.frame.b0.toNat < 2 ^ (8 - nlz r.fam)
  /-- Item 9. -/
  lineDriven   : r.pinOe = true ↔ r.st = .startPulse ∨ r.st = .releaseLine
  /-- While byte 0 is assembled, its calibration bits are 0 in `sh` (R114). -/
  partialByte  : r.bitidx.toNat < 8 → r.sh.toNat < 2 ^ (r.bitidx.toNat - nlz r.fam)
  /-- A high sample has cost the bit loop a unit of budget, so an edge reads `rem <= T - 1` (R112). -/
  edgeBudget   : r.st = .bitLoop → r.prev = true → r.cnt.toNat + 1 ≤ r.T.toNat

/-- The invariants of R37, of a machine state. -/
abbrev State.Inv (s : State) : Prop := s.regs.Inv

/-! ## What an outcome says -/

/-- What `err` says about the other registers (R20, R24 to R26, R150 to R155). -/
structure Regs.OutcomeInv (r : Regs) : Prop where
  /-- No outcome before the attempt has ended (R20). -/
  okUntilDone  : r.st ≠ .done → r.err = .ok
  /-- No reading before the attempt has ended (R24, R25, R26). -/
  noReading    : r.st ≠ .done → r.hum = 0 ∧ r.tneg = false ∧ r.tmag = 0
  /-- `Ok`: 40 bits were received and the checksum holds (R151). -/
  okFrame      : r.st = .done → r.err = .ok → r.bitidx.toNat = 40 ∧ r.frame.checksumOk = true
  /-- `Checksum`: 40 bits were received and the checksum fails (R151). -/
  badFrame     : r.st = .done → r.err = .checksum → r.bitidx.toNat = 40 ∧ r.frame.checksumOk = false
  /-- `Timeout`: the bit loop ran out of budget before the 40th bit (R151). -/
  timedOut     : r.st = .done → r.err = .timeout → r.bitidx.toNat ≤ 39 ∧ r.cnt = 0
  /-- A handshake error: no bit was received (R151). -/
  noHandshake  : r.st = .done → r.err = .connect ∨ r.err = .ackLow ∨ r.err = .ackHigh →
    r.bitidx = 0 ∧ r.cnt = 0
  /-- With a complete frame the reading is the decode of the frame (R131). -/
  reading      : r.st = .done → r.err = .ok ∨ r.err = .checksum →
    r.hum = r.decodeFields.hum ∧ r.tneg = r.decodeFields.tneg ∧ r.tmag = r.decodeFields.tmag
  /-- After a timeout-class error nothing was decoded (R155). -/
  undecoded    : r.st = .done → timeoutClass r.err = true → r.hum = 0 ∧ r.tneg = false ∧ r.tmag = 0

/-- Both invariants together: the second is inductive with the first. -/
abbrev State.SafeInv (s : State) : Prop := s.regs.Inv ∧ s.regs.OutcomeInv

/-- A run that supports claims: no command was issued that the spec tells a model to refuse (R83, R84). -/
abbrev State.Unmarked (s : State) : Prop := s.env.marked = false

/-! ## Several clock edges -/

/-- `n` clock edges, stopping at the first fault or refusal: the host's run of `Sys2Proof.core`. -/
def run : Nat → State → Host.Outcome State Fault Refusal
  | 0, s => .next s
  | n + 1, s =>
    match step s with
    | .next s' => run n s'
    | .fault r => .fault r
    | .refused r => .refused r

/-- No reset at any of the next `n` clock edges. -/
abbrev State.noResetFor (s : State) (n : Nat) : Prop := ∀ k, k < n → (s.env.inputAt k).rst = false

/-- The sample of the `k`-th coming clock edge (R49). -/
def State.sampleAt (s : State) (k : Nat) : Level := (s.env.inputAt k).pinIn

/-- The `k`-th coming tick is a falling edge for the bit loop: the sample before it, which is `prev` at
the first one, was high, and its own sample is low (R112). -/
def State.edgeAt (s : State) : Nat → Prop
  | 0 => s.regs.prev = true ∧ s.sampleAt 0 = false
  | k + 1 => s.sampleAt k = true ∧ s.sampleAt (k + 1) = false

/-- The input levels hold a command that starts an attempt (R80): a request, a legal family, a timeout
other than 0. -/
def legalCommand (x : Inputs) : Bool := x.start && x.family != 3 && x.timeout != 0

/-- The input levels hold a request that is no legal command (R73, R83, R84). -/
def illegalCommand (x : Inputs) : Bool := x.start && (x.family == 3 || x.timeout == 0)

/-- The same state but for the levels of the host's three ports at the next edge. -/
def State.withHostPorts (s : State) (start : Level) (family : BitVec 2) (timeout : Ticks) : State :=
  { s with env := s.env.withNext { s.now with start := start, family := family, timeout := timeout } }

/-- The same state but for the level of the wire at the next edge. -/
def State.withPinIn (s : State) (level : Level) : State :=
  { s with env := s.env.withNext { s.now with pinIn := level } }

/-- The same state but for the delay collaborator's answer at the next edge. -/
def State.withDelayDone (s : State) (level : Level) : State :=
  { s with env := s.env.withNext { s.now with delayDone := level } }

/-! ## The tables of the spec, written out -/

/-- The START column of R36: what an accepted command writes into every register. -/
def startColumn (family : Family) (timeout : Ticks) : Regs where
  st     := .startPulse
  fam    := family
  T      := timeout
  cnt    := 0
  prev   := false
  bitidx := 0
  sh     := 0
  frame  := { b0 := 0, b1 := 0, b2 := 0, b3 := 0, b4 := 0 }
  floor  := 0
  margin := 0
  err    := .ok
  hum    := 0
  tneg   := false
  tmag   := 0
  pinOe  := true

/-- The transition table of R168: the state after a clock edge with `rst = 0`. -/
def transition (s : State) : St :=
  match s.regs.st with
  | .idle => if legalCommand s.now then .startPulse else .idle
  | .startPulse => if s.now.delayDone then .releaseLine else .startPulse
  | .releaseLine => .awaitSensorLow
  | .awaitSensorLow =>
    if s.now.pinIn = false then .awaitAckHigh
    else if s.regs.cnt.toNat = 1 then .done else .awaitSensorLow
  | .awaitAckHigh =>
    if s.now.pinIn = true then .awaitAckLow
    else if s.regs.cnt.toNat = 1 then .done else .awaitAckHigh
  | .awaitAckLow =>
    if s.now.pinIn = false then .bitLoop
    else if s.regs.cnt.toNat = 1 then .done else .awaitAckLow
  | .bitLoop =>
    if s.regs.prev = true ∧ s.now.pinIn = false then
      if s.regs.bitidx.toNat = 39 then .validate else .bitLoop
    else if s.regs.cnt.toNat = 1 then .done else .bitLoop
  | .validate => .done
  | .done => if legalCommand s.now then .startPulse else .done

/-! ## The bit loop in the spec's words -/

/-- This tick ends a cell: the previous sample was high and this one is low (R112). -/
abbrev State.atEdge (s : State) : Prop := s.regs.prev = true ∧ s.now.pinIn = false

/-- What an edge tick that receives the bit `b` does outside `floor` and `margin` (R110, R117, R118):
`b` enters `sh` from below, every eighth bit completes the byte of its index and clears `sh`, the
40th bit ends the loop, the countdown is reloaded, and every other register keeps its value. -/
structure edgeWrites (r r' : Regs) (b : Level) : Prop where
  st         : r'.st = if r.bitidx.toNat = 39 then .validate else r.st
  cnt        : r'.cnt.toNat = r.T.toNat
  prev       : r'.prev = false
  bitidx     : r'.bitidx.toNat = r.bitidx.toNat + 1
  byteStored : r.bitidx.toNat % 8 = 7 → r'.sh = 0 ∧
    (∃ v : Byte, r'.frame.get (r.bitidx.toNat / 8) = some v ∧
      v.toNat = (2 * r.sh.toNat + b.toNat) % 256) ∧
    (∀ i, i ≠ r.bitidx.toNat / 8 → r'.frame.get i = r.frame.get i)
  bitShifted : r.bitidx.toNat % 8 ≠ 7 →
    r'.sh.toNat = (2 * r.sh.toNat + b.toNat) % 256 ∧ r'.frame = r.frame
  others     : r'.fam = r.fam ∧ r'.T = r.T ∧ r'.err = r.err ∧ r'.hum = r.hum ∧ r'.tneg = r.tneg ∧
    r'.tmag = r.tmag ∧ r'.pinOe = r.pinOe

/-- Received bit number `k` as it stands in the registers (R45): in its frame byte once that byte is
complete, until then in `sh`, the first-received bit uppermost. -/
def Regs.storedBit (r : Regs) (k : Nat) : Level :=
  if k / 8 < r.byteIndex then
    match r.frame.get (k / 8) with
    | some v => v.getLsbD (7 - k % 8)
    | none => false
  else r.sh.getLsbD (r.bitInByte - 1 - k % 8)

/-- `e = T - cnt`: the measured length of the running cell, in ticks (R111). -/
def Regs.elapsed (r : Regs) : Nat := r.T.toNat - r.cnt.toNat

/-- `e_min = T - floor`: the length of the shortest calibration cell (R113). -/
def Regs.shortest (r : Regs) : Nat := r.T.toNat - r.floor.toNat

/-- Two attempts in or after the bit loop that differ in their budget alone: equal but for `T`, and
for `cnt`, `floor` and `margin`, which stand for equal measured lengths (R111, R120). -/
structure sameUpToBudget (a b : Regs) : Prop where
  st       : a.st = b.st
  fam      : a.fam = b.fam
  prev     : a.prev = b.prev
  bitidx   : a.bitidx = b.bitidx
  sh       : a.sh = b.sh
  frame    : a.frame = b.frame
  err      : a.err = b.err
  reading  : a.hum = b.hum ∧ a.tneg = b.tneg ∧ a.tmag = b.tmag
  pinOe    : a.pinOe = b.pinOe
  elapsed  : a.st = .bitLoop → a.elapsed = b.elapsed
  shortest : 1 ≤ a.bitidx.toNat → a.shortest = b.shortest

end Sys2Proof.Machine
end

