-- ==== Sys2Proof/Certificates/Slice0/Obligations.lean ====
section
/-! DEFINITION. The statements for the provers. Each docstring names the rule of spec/ it formalises, or,
where the clause is an inference of the spec's or a choice of the model's, says so. -/

open Sys2Proof Sys2Proof.Machine

/-! ## Encoding -/

/-- The decoder reads back every encoded instruction, and every word that decodes is the encoding of
its instruction: no bit of a word is dropped (R60, R61, R64, R72). -/
def Obligations.DecodeAndEncodeAgree : Prop :=
  (∀ i : Instr, decode (encode i) = .ok i) ∧
  (∀ (w : FetchWord) (i : Instr), decode w = .ok i → encode i = w)

/-- The opcode table read as R72 gives it: the four `CMD` rows by the mask `0x18000`, the operand in
bits 14:0, the nine `STATE` rows by their codes, and the unused codes 9 to 15 rejected (R61, R64, R73). -/
def Obligations.DecoderFollowsTheOpcodeTable : Prop :=
  (∀ w : BitVec 17, w &&& 0x18000 = 0x00000 → decode (.cmd w) = .ok (.decodeT11 (w.setWidth 15))) ∧
  (∀ w : BitVec 17, w &&& 0x18000 = 0x08000 → decode (.cmd w) = .ok (.decodeT21 (w.setWidth 15))) ∧
  (∀ w : BitVec 17, w &&& 0x18000 = 0x10000 → decode (.cmd w) = .ok (.decodeT22 (w.setWidth 15))) ∧
  (∀ w : BitVec 17, w &&& 0x18000 = 0x18000 → decode (.cmd w) = .ok (.cmdReserved (w.setWidth 15))) ∧
  decode (.state 0) = .ok .idle ∧ decode (.state 1) = .ok .startPulse ∧
  decode (.state 2) = .ok .releaseLine ∧ decode (.state 3) = .ok .awaitSensorLow ∧
  decode (.state 4) = .ok .awaitAckHigh ∧ decode (.state 5) = .ok .awaitAckLow ∧
  decode (.state 6) = .ok .bitLoop ∧ decode (.state 7) = .ok .validate ∧
  decode (.state 8) = .ok .done ∧
  (∀ c : BitVec 4, 8 < c.toNat → decode (.state c) = .error .unusedStateCode)

/-- The opcode table and the decoder the machine uses are one (R72): a word fits the rows of two
instructions only if both are of one constructor, and it decodes to an instruction exactly when it fits
that instruction's row and carries its operand. -/
def Obligations.OpcodeRowsDoNotOverlap : Prop :=
  (∀ (w : FetchWord) (i j : Instr), fitsRow w (tableRow i) = true → fitsRow w (tableRow j) = true →
    i.ctorIdx = j.ctorIdx) ∧
  (∀ (w : FetchWord) (i : Instr), decode w = .ok i ↔
    fitsRow w (tableRow i) = true ∧ w.operand = i.operand)

/-- Words written out from the spec (95_test_vectors.md P1 to P3, P5 and the codes of R64) decode to what
they stand for. A sanity statement. -/
def Obligations.SampleWordsDecode : Prop :=
  decodeTableWord 24 0x10010 = some (.decodeT22 16) ∧
  decodeTableWord 24 0x08010 = some (.decodeT21 16) ∧
  decodeTableWord 24 0x00010 = some (.decodeT11 16) ∧
  decodeTableWord 24 0x00006 = some (.decodeT11 6) ∧
  decodeTableWord 24 0x1FFFF = some (.cmdReserved 32767) ∧
  decodeTableWord 8 3 = some .awaitSensorLow ∧
  decodeTableWord 8 6 = some .bitLoop ∧
  decodeTableWord 8 7 = some .validate ∧
  decodeTableWord 8 9 = none

/-! ## One clock edge -/

/-- Without reset, a clock edge looks up the command on the ports where the block rests and `start` is
1, and the state code otherwise; the step is `exec` of the instruction that word decodes to, and then
the edge's input levels are consumed. Looking up ONE row per edge is the model's reading of R72
(assumption 7). -/
def Obligations.StepRunsTheDecodedInstruction : Prop :=
  (∀ s : State, s.fetchWord = if resting s.regs.st = true ∧ s.now.start = true then
    .cmd (s.now.family ++ s.now.timeout) else .state s.regs.st.code) ∧
  (∀ (s : State) (i : Instr), s.now.rst = false → decode s.fetchWord = .ok i →
    step s = match exec i s with
      | .next s' => .next {
          regs := s'.regs
          env  := { inputs := s'.env.inputs.tail, edge := s'.env.edge + 1, marked := s'.env.marked } }
      | .fault r => .fault r
      | .refused r => .refused r)

/-- The interface to the host: a word placed in a state is what the next step looks up and runs, for
every word the decoder reads (assumption 11, the model's choice). -/
def Obligations.PlacedWordIsLookedUpNext : Prop :=
  ∀ (s : State) (nbits w : Nat) (i : Instr), decodeTableWord nbits w = some i →
    (s.withFetchWord nbits w).now.rst = false ∧ decode (s.withFetchWord nbits w).fetchWord = .ok i

/-- The two rows R72 names for one edge never disagree: at rest with `start = 1` the row of the command
and the row of the resting state answer the same (assumption 7), and a command row run while busy, where
R82 says it is not looked up, does nothing (assumption 8). -/
def Obligations.CommandRowAgreesWithStateRow : Prop :=
  (∀ s : State, resting s.regs.st = true → s.now.start = true →
    exec (commandOf s.now.family s.now.timeout) s = exec (operationOf s.regs.st) s) ∧
  (∀ (s : State) (t : Ticks), resting s.regs.st = false →
    exec (.decodeT11 t) s = .next s ∧ exec (.decodeT21 t) s = .next s ∧
    exec (.decodeT22 t) s = .next s ∧ exec (.cmdReserved t) s = .next s)

/-- Every step that answers a next state consumes exactly one edge of the input levels, and marks the
run exactly when the host issued an illegal command to a block at rest (R49; assumptions 1, 2, 4: the
model's own fields). -/
def Obligations.StepConsumesOneEdgeAndMarksIllegalCommands : Prop :=
  ∀ s s' : State, step s = .next s' →
    s'.env.inputs = s.env.inputs.tail ∧ s'.env.edge = s.env.edge + 1 ∧
    (s'.env.marked = true ↔ s.env.marked = true ∨
      (s.now.rst = false ∧ resting s.regs.st = true ∧ illegalCommand s.now = true))

/-! ## Reset -/

/-- R180: at a clock edge with `rst = 1` every register takes its reset value, in every state and
whatever the other inputs are; the line is released and no result is on the ports. -/
def Obligations.ResetEdgeWritesEveryRegister : Prop :=
  ∀ s : State, s.now.rst = true → ∃ s' : State, step s = .next s' ∧
    s'.regs.st = .idle ∧ s'.regs.pinOe = false ∧ s'.regs.fam.code = 0 ∧ s'.regs.T = 0 ∧
    s'.regs.cnt = 0 ∧ s'.regs.prev = false ∧ s'.regs.bitidx = 0 ∧ s'.regs.sh = 0 ∧
    (∀ i, i ≤ 4 → s'.regs.frame.get i = some 0) ∧ s'.regs.floor = 0 ∧ s'.regs.margin = 0 ∧
    s'.regs.err.code = 0 ∧ s'.regs.hum = 0 ∧ s'.regs.tneg = false ∧ s'.regs.tmag = 0 ∧
    s'.regs.outputs.busy = false ∧ s'.regs.outputs.done = false ∧
    s'.regs.outputs.frameValid = false ∧ s'.regs.outputs.readingValid = false ∧
    s'.regs.outputs.delayReq = false ∧ s'.regs.outputs.pinPull = true

/-- R36: the reset column, the ports after reset, and the START column as a clock edge writes it that
accepts a command. -/
def Obligations.ResetAndStartColumns : Prop :=
  (State.reset.regs.st = .idle ∧ State.reset.regs.fam.code = 0 ∧ State.reset.regs.T = 0 ∧
    State.reset.regs.cnt = 0 ∧ State.reset.regs.prev = false ∧ State.reset.regs.bitidx = 0 ∧
    State.reset.regs.sh = 0 ∧ (∀ i, i ≤ 4 → State.reset.regs.frame.get i = some 0) ∧
    State.reset.regs.floor = 0 ∧ State.reset.regs.margin = 0 ∧ State.reset.regs.err.code = 0 ∧
    State.reset.regs.hum = 0 ∧ State.reset.regs.tneg = false ∧ State.reset.regs.tmag = 0 ∧
    State.reset.regs.pinOe = false) ∧
  (State.reset.regs.outputs.busy = false ∧ State.reset.regs.outputs.done = false ∧
    State.reset.regs.outputs.frameValid = false ∧ State.reset.regs.outputs.readingValid = false ∧
    State.reset.regs.outputs.delayReq = false ∧ State.reset.regs.outputs.pinPull = true ∧
    State.reset.regs.outputs.pinOut = false) ∧
  (∀ (s : State) (f : Family), s.now.rst = false → resting s.regs.st = true → s.now.start = true →
    s.now.family = f.code → s.now.timeout ≠ 0 →
    ∃ s' : State, step s = .next s' ∧ s'.regs = startColumn f s.now.timeout)

/-! ## Commands -/

/-- R80: each DECODE row, and the `IDLE` row with the command on the ports, writes the START column of
R36 into every register, which shows `busy` and asks for the wake-up delay; without `start` nothing
changes, and with a command that can not be accepted no register does (R83, R84). -/
def Obligations.DecodeCommandStartsAnAttempt : Prop :=
  (∀ (s : State) (t : Ticks), resting s.regs.st = true → t ≠ 0 →
    exec (.decodeT11 t) s = .next { s with regs := startColumn .type11 t } ∧
    exec (.decodeT21 t) s = .next { s with regs := startColumn .type21 t } ∧
    exec (.decodeT22 t) s = .next { s with regs := startColumn .type22 t }) ∧
  (∀ (s : State) (f : Family), s.regs.st = .idle → s.now.start = true → s.now.family = f.code →
    s.now.timeout ≠ 0 → exec .idle s = .next { s with regs := startColumn f s.now.timeout }) ∧
  (∀ s : State, s.regs.st = .idle → s.now.start = false → exec .idle s = .next s) ∧
  (∀ s : State, s.regs.st = .idle → s.now.start = true → s.now.family = 3 ∨ s.now.timeout = 0 →
    ∃ s' : State, exec .idle s = .next s' ∧ s'.regs = s.regs) ∧
  (∀ (f : Family) (t : Ticks), (startColumn f t).outputs.busy = true ∧
    (startColumn f t).outputs.done = false ∧ (startColumn f t).outputs.frameValid = false ∧
    (startColumn f t).outputs.readingValid = false ∧ (startColumn f t).outputs.delayReq = true ∧
    (startColumn f t).outputs.delayMs = wakeMs f)

/-- R156: `DONE` accepts a legal command exactly so, and otherwise no register changes; while
the block is in it the line is released, no delay is asked for and `done` is shown. -/
def Obligations.DoneAcceptsALegalCommandOrHolds : Prop :=
  (∀ (s : State) (f : Family), s.regs.st = .done → s.now.start = true → s.now.family = f.code →
    s.now.timeout ≠ 0 → exec .done s = .next { s with regs := startColumn f s.now.timeout }) ∧
  (∀ s : State, s.regs.st = .done →
    s.now.start = false ∨ s.now.family = 3 ∨ s.now.timeout = 0 →
    ∃ s' : State, exec .done s = .next s' ∧ s'.regs = s.regs) ∧
  (∀ s : State, s.regs.st = .done → s.now.start = false → exec .done s = .next s) ∧
  (∀ r : Regs, r.st = .done → r.outputs.done = true ∧ r.outputs.busy = false ∧
    r.outputs.delayReq = false) ∧
  (∀ r : Regs, r.Inv → r.st = .done → r.outputs.pinOe = false)

/-- R83: at rest the reserved family code changes no register, whatever the timeout is, so an earlier
result stays on the ports. -/
def Obligations.ReservedCommandChangesNoRegister : Prop :=
  (∀ (s : State) (t : Ticks), resting s.regs.st = true →
    ∃ s' : State, exec (.cmdReserved t) s = .next s' ∧ s'.regs = s.regs) ∧
  (∀ s : State, s.now.rst = false → resting s.regs.st = true → s.now.start = true →
    s.now.family = 3 → ∃ s' : State, step s = .next s' ∧ s'.regs = s.regs ∧
      s'.regs.outputs = s.regs.outputs ∧ s'.regs.outputs.busy = false)

/-- R84: at rest a timeout of 0 changes no register, whatever the family is. -/
def Obligations.ZeroTimeoutChangesNoRegister : Prop :=
  (∀ s : State, resting s.regs.st = true →
    (∃ s' : State, exec (.decodeT11 0) s = .next s' ∧ s'.regs = s.regs) ∧
    (∃ s' : State, exec (.decodeT21 0) s = .next s' ∧ s'.regs = s.regs) ∧
    (∃ s' : State, exec (.decodeT22 0) s = .next s' ∧ s'.regs = s.regs)) ∧
  (∀ s : State, s.now.rst = false → resting s.regs.st = true → s.now.start = true →
    s.now.timeout = 0 → ∃ s' : State, step s = .next s' ∧ s'.regs = s.regs ∧
      s'.regs.outputs = s.regs.outputs ∧ s'.regs.outputs.busy = false)

/-- R82: while busy the three host ports are not read: whatever is on them, the step is the same, so
nothing on them is remembered or queued. -/
def Obligations.StartWhileBusyIsIgnored : Prop :=
  ∀ (s : State) (start : Level) (family : BitVec 2) (timeout : Ticks),
    resting s.regs.st = false → step (s.withHostPorts start family timeout) = step s

/-- R52: `family` and `timeout` are copied at the accepting edge, and a busy block keeps the copies
whatever the ports show. -/
def Obligations.FamilyAndTimeoutAreLatched : Prop :=
  (∀ (s : State) (f : Family), s.now.rst = false → resting s.regs.st = true → s.now.start = true →
    s.now.family = f.code → s.now.timeout ≠ 0 →
    ∃ s' : State, step s = .next s' ∧ s'.regs.fam = f ∧ s'.regs.T = s.now.timeout) ∧
  (∀ (s s' : State) (start : Level) (family : BitVec 2) (timeout : Ticks), s.now.rst = false →
    resting s.regs.st = false → step (s.withHostPorts start family timeout) = .next s' →
    s'.regs.fam = s.regs.fam ∧ s'.regs.T = s.regs.T)

/-- Nothing an earlier attempt left reaches a later one: two blocks at rest, whatever their registers
hold, take the same step on the same legal command (70_reset_and_hazards.md R182 and 10_state.md R35,
the spec's own inferences). -/
def Obligations.AcceptedCommandErasesThePast : Prop :=
  ∀ s₁ s₂ : State, s₁.env = s₂.env → resting s₁.regs.st = true → resting s₂.regs.st = true →
    s₁.now.rst = false → legalCommand s₁.now = true → step s₁ = step s₂

/-! ## Handshake -/

/-- R90: `START_PULSE` ends at an edge with `delay_done = 1` and otherwise changes nothing; throughout
it asks for 18 ms (Type11) or 1 ms (Type21, Type22) and drives the line. -/
def Obligations.StartPulseHoldsUntilDelayDone : Prop :=
  (∀ s : State, s.regs.st = .startPulse → s.now.delayDone = true →
    exec .startPulse s = .next { s with regs := { s.regs with st := .releaseLine } }) ∧
  (∀ s : State, s.regs.st = .startPulse → s.now.delayDone = false →
    exec .startPulse s = .next s) ∧
  (∀ r : Regs, r.st = .startPulse → r.outputs.delayReq = true ∧
    (r.fam = .type11 → r.outputs.delayMs.toNat = 18) ∧
    (r.fam = .type21 ∨ r.fam = .type22 → r.outputs.delayMs.toNat = 1)) ∧
  (∀ r : Regs, r.Inv → r.st = .startPulse → r.outputs.pinOe = true)

/-- R91: `RELEASE_LINE` releases the line, loads `2 * T` and goes on. -/
def Obligations.ReleaseLineLoadsTwiceTheBudget : Prop :=
  ∀ s : State, ∃ c : Count, c.toNat = 2 * s.regs.T.toNat ∧ exec .releaseLine s =
    .next { s with regs := { s.regs with pinOe := false, cnt := c, st := .awaitSensorLow } }

/-- R92: the wait for the sensor's first low, the pin tested before the counter. -/
def Obligations.AwaitSensorLowTick : Prop :=
  ∀ s : State, s.regs.st = .awaitSensorLow →
    (s.now.pinIn = false → ∃ c : Count, c.toNat = s.regs.T.toNat ∧ exec .awaitSensorLow s =
      .next { s with regs := { s.regs with cnt := c, st := .awaitAckHigh } }) ∧
    (s.now.pinIn = true → s.regs.cnt.toNat = 1 → exec .awaitSensorLow s =
      .next { s with regs := { s.regs with cnt := 0, err := .connect, st := .done } }) ∧
    (s.now.pinIn = true → 1 < s.regs.cnt.toNat → ∃ c : Count, c.toNat = s.regs.cnt.toNat - 1 ∧
      exec .awaitSensorLow s = .next { s with regs := { s.regs with cnt := c } })

/-- R93: the wait through the acknowledgment's low part. -/
def Obligations.AwaitAckHighTick : Prop :=
  ∀ s : State, s.regs.st = .awaitAckHigh →
    (s.now.pinIn = true → ∃ c : Count, c.toNat = s.regs.T.toNat ∧ exec .awaitAckHigh s =
      .next { s with regs := { s.regs with cnt := c, st := .awaitAckLow } }) ∧
    (s.now.pinIn = false → s.regs.cnt.toNat = 1 → exec .awaitAckHigh s =
      .next { s with regs := { s.regs with cnt := 0, err := .ackLow, st := .done } }) ∧
    (s.now.pinIn = false → 1 < s.regs.cnt.toNat → ∃ c : Count, c.toNat = s.regs.cnt.toNat - 1 ∧
      exec .awaitAckHigh s = .next { s with regs := { s.regs with cnt := c } })

/-- R94: the wait through the acknowledgment's high part; its end primes the edge detector. -/
def Obligations.AwaitAckLowTick : Prop :=
  ∀ s : State, s.regs.st = .awaitAckLow →
    (s.now.pinIn = false → ∃ c : Count, c.toNat = s.regs.T.toNat ∧ exec .awaitAckLow s =
      .next { s with regs := { s.regs with cnt := c, prev := false, st := .bitLoop } }) ∧
    (s.now.pinIn = true → s.regs.cnt.toNat = 1 → exec .awaitAckLow s =
      .next { s with regs := { s.regs with cnt := 0, err := .ackHigh, st := .done } }) ∧
    (s.now.pinIn = true → 1 < s.regs.cnt.toNat → ∃ c : Count, c.toNat = s.regs.cnt.toNat - 1 ∧
      exec .awaitAckLow s = .next { s with regs := { s.regs with cnt := c } })

/-- The law of the three waits (41_handshake.md R95, the spec's own inference): a wait with `N` units of
budget succeeds at the first sample of the awaited level if that is among the first `N`, and otherwise
raises its error at the `N`-th. -/
def Obligations.LawOfTheThreeWaits : Prop :=
  ∀ s : State, 1 ≤ s.regs.cnt.toNat → s.noResetFor s.regs.cnt.toNat →
    (s.regs.st = .awaitSensorLow →
      (∀ j, j < s.regs.cnt.toNat → (∀ i, i < j → s.sampleAt i = true) → s.sampleAt j = false →
        ∃ s' : State, run (j + 1) s = .next s' ∧ s'.regs.cnt.toNat = s.regs.T.toNat ∧
          s'.regs = { s.regs with st := .awaitAckHigh, cnt := s'.regs.cnt }) ∧
      ((∀ i, i < s.regs.cnt.toNat → s.sampleAt i = true) →
        ∃ s' : State, run s.regs.cnt.toNat s = .next s' ∧
          s'.regs = { s.regs with st := .done, err := .connect, cnt := 0 })) ∧
    (s.regs.st = .awaitAckHigh →
      (∀ j, j < s.regs.cnt.toNat → (∀ i, i < j → s.sampleAt i = false) → s.sampleAt j = true →
        ∃ s' : State, run (j + 1) s = .next s' ∧ s'.regs.cnt.toNat = s.regs.T.toNat ∧
          s'.regs = { s.regs with st := .awaitAckLow, cnt := s'.regs.cnt }) ∧
      ((∀ i, i < s.regs.cnt.toNat → s.sampleAt i = false) →
        ∃ s' : State, run s.regs.cnt.toNat s = .next s' ∧
          s'.regs = { s.regs with st := .done, err := .ackLow, cnt := 0 })) ∧
    (s.regs.st = .awaitAckLow →
      (∀ j, j < s.regs.cnt.toNat → (∀ i, i < j → s.sampleAt i = true) → s.sampleAt j = false →
        ∃ s' : State, run (j + 1) s = .next s' ∧ s'.regs.cnt.toNat = s.regs.T.toNat ∧
          s'.regs = { s.regs with st := .bitLoop, prev := false, cnt := s'.regs.cnt }) ∧
      ((∀ i, i < s.regs.cnt.toNat → s.sampleAt i = true) →
        ∃ s' : State, run s.regs.cnt.toNat s = .next s' ∧
          s'.regs = { s.regs with st := .done, err := .ackHigh, cnt := 0 }))

/-! ## The bit loop -/

/-- R110 with its sub-steps R113, R114, R115, R117, R118: one tick of the bit loop. An edge receives a
bit, 0 in the calibration region and else 1 exactly when `rem + margin <= floor` over the integers; a
calibration edge raises the floor to a maximum and recomputes the margin, a later one leaves both
alone; the bit is shifted in, every eighth completes a byte, the 40th ends the loop. A tick without an
edge costs one unit of budget, and the last unit ends the attempt. -/
def Obligations.BitLoopTick : Prop :=
  (∀ s : State, s.regs.st = .bitLoop → s.regs.bitidx.toNat ≤ 39 → s.atEdge →
    ∃ (s' : State) (b : Level), exec .bitLoop s = .next s' ∧ s'.env = s.env ∧
      (b = true ↔ nlz s.regs.fam ≤ s.regs.bitidx.toNat ∧
        s.regs.cnt.toNat + s.regs.margin.toNat ≤ s.regs.floor.toNat) ∧
      edgeWrites s.regs s'.regs b ∧
      (s.regs.bitidx.toNat < nlz s.regs.fam → s.regs.cnt.toNat ≤ s.regs.T.toNat →
        s'.regs.floor.toNat = max s.regs.floor.toNat s.regs.cnt.toNat ∧
        s'.regs.margin.toNat = (s.regs.T.toNat - max s.regs.floor.toNat s.regs.cnt.toNat) / 4) ∧
      (nlz s.regs.fam ≤ s.regs.bitidx.toNat →
        s'.regs.floor = s.regs.floor ∧ s'.regs.margin = s.regs.margin)) ∧
  (∀ s : State, s.regs.st = .bitLoop → ¬ s.atEdge → s.regs.cnt.toNat = 1 → exec .bitLoop s =
    .next { s with regs :=
      { s.regs with cnt := 0, err := .timeout, st := .done, prev := s.now.pinIn } }) ∧
  (∀ s : State, s.regs.st = .bitLoop → ¬ s.atEdge → 1 < s.regs.cnt.toNat →
    ∃ c : Count, c.toNat = s.regs.cnt.toNat - 1 ∧
      exec .bitLoop s = .next { s with regs := { s.regs with cnt := c, prev := s.now.pinIn } })

/-- R119: with `N` units of budget left, an edge among the next `N` ticks ends its cell, the one at the
last unit too; `N` ticks without an edge end the attempt with `Timeout`, the frame incomplete. After
a reload `N` is `T`. -/
def Obligations.TimeoutAtTheLastTickWithoutEdge : Prop :=
  ∀ s : State, s.Inv → s.regs.st = .bitLoop → s.noResetFor s.regs.cnt.toNat →
    (∀ j, j < s.regs.cnt.toNat → (∀ i, i < j → ¬ s.edgeAt i) → s.edgeAt j →
      ∃ s' : State, run (j + 1) s = .next s' ∧ s'.regs.st ≠ .done ∧
        s'.regs.bitidx.toNat = s.regs.bitidx.toNat + 1 ∧ s'.regs.cnt.toNat = s.regs.T.toNat) ∧
    ((∀ i, i < s.regs.cnt.toNat → ¬ s.edgeAt i) →
      ∃ s' : State, run s.regs.cnt.toNat s = .next s' ∧ s'.regs.outputs.frameValid = false ∧
        s'.regs.outputs.readingValid = false ∧
        s'.regs = { s.regs with st := .done, err := .timeout, cnt := 0,
                                prev := s.sampleAt (s.regs.cnt.toNat - 1) })

/-- R112: in the bit loop a bit is received exactly at a high sample followed by a low one,
every tick remembers its sample, and no tick after an edge is an edge. -/
def Obligations.EdgesAreHighThenLow : Prop :=
  ∀ s s' : State, s.Inv → s.now.rst = false → s.regs.st = .bitLoop → step s = .next s' →
    (s'.regs.bitidx = s.regs.bitidx + 1 ↔ s.atEdge) ∧
    (¬ s.atEdge → s'.regs.bitidx = s.regs.bitidx) ∧
    s'.regs.prev = s.now.pinIn ∧ (s.atEdge → ¬ s'.atEdge)

/-- R116: where the margin exceeds the floor every data bit is 0; nothing wraps around. -/
def Obligations.ClassifierDoesNotWrapAround : Prop :=
  ∀ s : State, s.Inv → s.now.rst = false → s.regs.st = .bitLoop → s.atEdge →
    nlz s.regs.fam ≤ s.regs.bitidx.toNat → s.regs.floor.toNat < s.regs.margin.toNat →
    ∃ s' : State, step s = .next s' ∧ s'.regs.bitidx = s.regs.bitidx + 1 ∧
      s'.regs.storedBit s.regs.bitidx.toNat = false

/-- The registers hold the received bits in arrival order (R45, R68), and each edge appends the bit that
the threshold law gives (42_bitloop.md R120, the spec's own inference): 0 in the calibration region,
else 1 exactly when the cell is at least a quarter longer than the shortest calibration cell. After 40
bits, bit `k` is bit `39 - k` of `frame_o`. -/
def Obligations.ReceivedBitsStandInArrivalOrder : Prop :=
  (∀ s : State, s.Inv → s.now.rst = false → s.regs.st = .bitLoop → s.atEdge →
    ∃ s' : State, step s = .next s' ∧ s'.regs.bitidx.toNat = s.regs.bitidx.toNat + 1 ∧
      (∀ k, k < s.regs.bitidx.toNat → s'.regs.storedBit k = s.regs.storedBit k) ∧
      (s'.regs.storedBit s.regs.bitidx.toNat = true ↔
        nlz s.regs.fam ≤ s.regs.bitidx.toNat ∧
        s.regs.shortest + s.regs.shortest / 4 ≤ s.regs.elapsed)) ∧
  (∀ (r : Regs) (k : Nat), r.bitidx.toNat = 40 → k < 40 →
    r.storedBit k = r.frame.word.getLsbD (39 - k))

/-- The budget enters the result only through `Timeout` (42_bitloop.md R120, the spec's own inference):
two attempts in the bit loop that differ in their budget alone still differ in it alone after one more
edge with the same sample, unless one of them times out. -/
def Obligations.ClassificationIsIndependentOfTheBudget : Prop :=
  ∀ a b a' b' : State, a.Inv → b.Inv → sameUpToBudget a.regs b.regs →
    a.regs.st = .bitLoop ∨ a.regs.st = .validate →
    a.now.rst = false → b.now.rst = false → a.now.pinIn = b.now.pinIn →
    step a = .next a' → step b = .next b' →
    a'.regs.err ≠ .timeout → b'.regs.err ≠ .timeout → sameUpToBudget a'.regs b'.regs

/-- Where `BIT_LOOP` stops: at an edge that completes a byte beyond the frame store, which has bytes 0
to 4 only (R38). The fault is the model's choice (assumption 10); no state that meets R37 raises it. -/
def Obligations.BitLoopFaultsOnlyOutsideTheFrame : Prop :=
  ∀ s : State, exec .bitLoop s = .fault .noSuchFrameByte ↔
    s.atEdge ∧ s.regs.bitidx.toNat % 8 = 7 ∧ 5 ≤ s.regs.bitidx.toNat / 8

/-- R44: `BIT_LOOP` stores a frame byte at the edge that completes it, as a whole, with the received bit
lowest (0 in the calibration region, else the classifier's), and only that byte; an accepted command
and reset clear all five; nothing else changes the frame. -/
def Obligations.FrameByteIsWrittenWhole : Prop :=
  (∀ s : State, s.now.rst = false → s.regs.st = .bitLoop → s.atEdge →
    s.regs.bitidx.toNat % 8 = 7 → s.regs.bitidx.toNat / 8 ≤ 4 →
    ∃ (s' : State) (v : Byte) (b : Level), step s = .next s' ∧
      s'.regs.frame.get (s.regs.bitidx.toNat / 8) = some v ∧
      v.toNat = (2 * s.regs.sh.toNat + b.toNat) % 256 ∧
      (b = true ↔ nlz s.regs.fam ≤ s.regs.bitidx.toNat ∧
        s.regs.cnt.toNat + s.regs.margin.toNat ≤ s.regs.floor.toNat) ∧
      (∀ i, i ≠ s.regs.bitidx.toNat / 8 → s'.regs.frame.get i = s.regs.frame.get i)) ∧
  (∀ s : State, s.now.rst = true ∨ (resting s.regs.st = true ∧ legalCommand s.now = true) →
    ∃ s' : State, step s = .next s' ∧ ∀ i, i ≤ 4 → s'.regs.frame.get i = some 0) ∧
  (∀ s s' : State, step s = .next s' → s'.regs.frame ≠ s.regs.frame →
    (s.now.rst = false ∧ s.regs.st = .bitLoop ∧ s.atEdge ∧ s.regs.bitidx.toNat % 8 = 7 ∧
      s.regs.bitidx.toNat / 8 ≤ 4) ∨
    s.now.rst = true ∨ (resting s.regs.st = true ∧ legalCommand s.now = true))

/-! ## Validate and decode -/

/-- R131 with R132, R134, R135, R136: `VALIDATE` decodes the fields by the family, whether or not the
checksum holds, gives `Ok` or `Checksum` by the bytes as received, and leaves the frame alone. -/
def Obligations.ValidateDecodesAndCommits : Prop :=
  ∀ s : State, s.regs.st = .validate → ∃ (h t : Tenths) (n : Level) (e : ErrorKind),
    exec .validate s = .next { s with regs :=
      { s.regs with hum := h, tneg := n, tmag := t, err := e, st := .done } } ∧
    e = (if (s.regs.frame.b0.toNat + s.regs.frame.b1.toNat + s.regs.frame.b2.toNat +
      s.regs.frame.b3.toNat) % 256 = s.regs.frame.b4.toNat then .ok else .checksum) ∧
    (s.regs.fam = .type11 → h.toNat = 10 * (s.regs.frame.b0.toNat % 128) ∧ n = false ∧
      t.toNat = 10 * (s.regs.frame.b2.toNat % 128)) ∧
    (s.regs.fam = .type21 ∨ s.regs.fam = .type22 →
      h.toNat = s.regs.frame.b0.toNat % 4 * 256 + s.regs.frame.b1.toNat ∧
      (n = true ↔ 128 ≤ s.regs.frame.b2.toNat) ∧
      t.toNat = s.regs.frame.b2.toNat % 4 * 256 + s.regs.frame.b3.toNat)

/-- The ranges of the result (43_validate_decode.md R137, the spec's own inference). -/
def Obligations.ReadingRanges : Prop :=
  ∀ s : State, s.now.rst = false → s.regs.st = .validate → ∃ s' : State, step s = .next s' ∧
    (s.regs.fam = .type11 → 10 ∣ s'.regs.hum.toNat ∧ s'.regs.hum.toNat ≤ 1270 ∧
      10 ∣ s'.regs.tmag.toNat ∧ s'.regs.tmag.toNat ≤ 1270 ∧ s'.regs.tneg = false) ∧
    (s.regs.fam ≠ .type11 → s'.regs.hum.toNat ≤ 1023 ∧ s'.regs.tmag.toNat ≤ 1023)

/-- The mask on `frame[0]` never changes anything in a state that meets R37 (43_validate_decode.md R140,
the spec's own inference). -/
def Obligations.MaskOnFirstByteChangesNothing : Prop :=
  ∀ r : Regs, r.Inv → (r.fam = .type11 → r.frame.b0 &&& 0x7F = r.frame.b0) ∧
    (r.fam ≠ .type11 → r.frame.b0 &&& 0x03 = r.frame.b0)

/-- R62: the three functions of the family, and Type21 and Type22 identical in every step but for the
value held in `fam`. -/
def Obligations.FamilyFunctionsAndTypes21And22Identical : Prop :=
  (nlz .type11 = 1 ∧ nlz .type21 = 6 ∧ nlz .type22 = 6 ∧
    (wakeMs .type11).toNat = 18 ∧ (wakeMs .type21).toNat = 1 ∧ (wakeMs .type22).toNat = 1) ∧
  (∀ s s' : State, s.now.rst = false → resting s.regs.st = false → s.regs.fam = .type21 →
    step s = .next s' → step { s with regs := { s.regs with fam := .type22 } } =
      .next { s' with regs := { s'.regs with fam := .type22 } }) ∧
  (∀ s s' : State, s.now.rst = false → resting s.regs.st = false → s.regs.fam = .type22 →
    step s = .next s' → step { s with regs := { s.regs with fam := .type21 } } =
      .next { s' with regs := { s'.regs with fam := .type21 } })

/-! ## Outcomes and ports -/

/-- R21, R22, R23: the four flags are functions of `st` and `err`. -/
def Obligations.ResultFlags : Prop :=
  ∀ r : Regs, (r.outputs.busy = true ↔ r.st ≠ .idle ∧ r.st ≠ .done) ∧
    (r.outputs.done = true ↔ r.st = .done) ∧
    (r.outputs.frameValid = true ↔ r.st = .done ∧ (r.err = .ok ∨ r.err = .checksum)) ∧
    (r.outputs.readingValid = true ↔ r.st = .done ∧ r.err = .ok)

/-- R31, R32, R33, R155: the ports show the registers, `err` by its code (R65). After a timeout-class
error both valid flags are 0 and the four result ports show nothing of the registers: they are the same
in any two blocks there. That they are absent is the model's choice and stated apart
(ResultPortsAbsentAfterTimeoutClassError). The block never drives the line high. -/
def Obligations.OutputPorts : Prop :=
  (∀ r : Regs, ¬ (r.st = .done ∧ timeoutClass r.err = true) →
    ∃ w : BitVec 40, r.outputs.frameO = some w ∧ w.extractLsb' 32 8 = r.frame.b0 ∧
      w.extractLsb' 24 8 = r.frame.b1 ∧ w.extractLsb' 16 8 = r.frame.b2 ∧
      w.extractLsb' 8 8 = r.frame.b3 ∧ w.extractLsb' 0 8 = r.frame.b4 ∧
      r.outputs.humO = some r.hum ∧ r.outputs.tnegO = some r.tneg ∧
      r.outputs.tmagO = some r.tmag) ∧
  (∀ r : Regs, r.st = .done → r.err = .timeout ∨ r.err = .connect ∨ r.err = .ackLow ∨
    r.err = .ackHigh → r.outputs.frameValid = false ∧ r.outputs.readingValid = false) ∧
  (∀ r q : Regs, r.st = .done → q.st = .done → timeoutClass r.err = true →
    timeoutClass q.err = true → r.outputs.frameO = q.outputs.frameO ∧
      r.outputs.humO = q.outputs.humO ∧ r.outputs.tnegO = q.outputs.tnegO ∧
      r.outputs.tmagO = q.outputs.tmagO) ∧
  (∀ r : Regs, r.st = .done → r.err = .checksum →
    r.outputs.frameValid = true ∧ r.outputs.readingValid = false) ∧
  (∀ r : Regs, r.outputs.err.toNat = match r.err with
    | .ok => 0 | .checksum => 1 | .timeout => 2 | .connect => 3 | .ackLow => 4 | .ackHigh => 5) ∧
  (∀ r : Regs, r.outputs.pinOe = r.pinOe ∧
    r.outputs.pinOut = false ∧ r.outputs.pinPull = !r.pinOe ∧
    (r.outputs.delayReq = true ↔ r.st = .startPulse) ∧
    r.outputs.delayMs.toNat = if r.fam = .type11 then 18 else 1)

/-- R152, R153: each error leaves exactly one state, `VALIDATE` gives `Ok` or `Checksum`; the exit writes
the code, `DONE` and what its rule lists, and leaves the line as it was; it is the only way into
`DONE`. -/
def Obligations.EachErrorHasItsState : Prop :=
  ∀ s s' : State, s.now.rst = false → step s = .next s' → s.regs.st ≠ .done → s'.regs.st = .done →
    (s.regs.st = .awaitSensorLow ∧
      s'.regs = { s.regs with err := .connect, st := .done, cnt := 0 }) ∨
    (s.regs.st = .awaitAckHigh ∧
      s'.regs = { s.regs with err := .ackLow, st := .done, cnt := 0 }) ∨
    (s.regs.st = .awaitAckLow ∧
      s'.regs = { s.regs with err := .ackHigh, st := .done, cnt := 0 }) ∨
    (s.regs.st = .bitLoop ∧
      s'.regs = { s.regs with err := .timeout, st := .done, cnt := 0, prev := s.now.pinIn }) ∨
    (s.regs.st = .validate ∧ (s'.regs.err = .ok ∨ s'.regs.err = .checksum) ∧
      s'.regs = { s.regs with err := s'.regs.err, st := .done, hum := s'.regs.hum,
                              tneg := s'.regs.tneg, tmag := s'.regs.tmag })

/-- R20: `err` changes only at the step that enters `DONE` and where it is cleared, and an accepted
command and reset do clear it to `Ok`. -/
def Obligations.ErrIsWrittenOncePerAttempt : Prop :=
  (∀ s s' : State, step s = .next s' → s'.regs.err ≠ s.regs.err →
    (s.now.rst = false ∧ resting s.regs.st = false ∧ s'.regs.st = .done) ∨
    (s.now.rst = false ∧ resting s.regs.st = true ∧ legalCommand s.now = true) ∨
    s.now.rst = true) ∧
  (∀ s : State, s.now.rst = false → resting s.regs.st = true → legalCommand s.now = true →
    ∃ s' : State, step s = .next s' ∧ s'.regs.err = .ok) ∧
  (∀ s : State, s.now.rst = true → ∃ s' : State, step s = .next s' ∧ s'.regs.err = .ok)

/-- R42: an accepted command drives the line, `RELEASE_LINE` and reset release it, and nothing else
changes `pin_oe`; the level driven is low, and the pull is on exactly while the line is not driven. -/
def Obligations.LineIsDrivenFromStartToRelease : Prop :=
  (∀ s : State, s.now.rst = false → resting s.regs.st = true → legalCommand s.now = true →
    ∃ s' : State, step s = .next s' ∧ s'.regs.pinOe = true) ∧
  (∀ s : State, s.now.rst = true ∨ s.regs.st = .releaseLine →
    ∃ s' : State, step s = .next s' ∧ s'.regs.pinOe = false) ∧
  (∀ s s' : State, step s = .next s' → s'.regs.pinOe ≠ s.regs.pinOe →
    (s.now.rst = false ∧ resting s.regs.st = true ∧ legalCommand s.now = true) ∨
    s.regs.st = .releaseLine ∨ s.now.rst = true) ∧
  (∀ r : Regs, r.outputs.pinOut = false ∧ (r.outputs.pinPull = true ↔ r.outputs.pinOe = false))

/-- Outside the four polling states the wire is not read, and outside `START_PULSE` the delay
collaborator's answer is not read (20_memory.md R43, the spec's own inference; R33). -/
def Obligations.WireAndDelayAreReadOnlyWhereTheRulesSay : Prop :=
  (∀ (s : State) (level : Level), polling s.regs.st = false →
    step (s.withPinIn level) = step s) ∧
  (∀ (s : State) (level : Level), s.regs.st ≠ .startPulse →
    step (s.withDelayDone level) = step s)

/-- The transition table (60_exceptions.md R168, the spec's own summary of its rules). -/
def Obligations.TransitionTable : Prop :=
  ∀ s : State, s.Inv → s.now.rst = false →
    ∃ s' : State, step s = .next s' ∧ s'.regs.st = transition s

/-- R53: from `DONE` no register changes until the next legal command or reset. -/
def Obligations.ResultIsStable : Prop :=
  ∀ (n : Nat) (s : State), s.regs.st = .done →
    (∀ k, k < n → (s.env.inputAt k).rst = false ∧ legalCommand (s.env.inputAt k) = false) →
    ∃ s' : State, run n s = .next s' ∧ s'.regs = s.regs

/-! ## Headlines -/

/-- The invariants of R37 (the spec's own inference), with two more that make them inductive, are kept
by every step from every state that meets them. -/
def Obligations.EveryStepKeepsTheInvariants : Prop :=
  ∀ s s' : State, s.Inv → step s = .next s' → s'.Inv

/-- What an outcome says about the registers behind it (R20, R131, R151, R155) is kept by every step,
together with the invariants of R37. -/
def Obligations.EveryStepKeepsWhatOutcomesSay : Prop :=
  ∀ s s' : State, s.SafeInv → step s = .next s' → s'.SafeInv

/-- The state after reset meets both invariants (R36, R37). -/
def Obligations.ResetMeetsTheInvariants : Prop := State.reset.SafeInv

/-- No state that meets the invariants of R37 stops the machine: every step answers a next state. -/
def Obligations.NoStepStopsUnderTheInvariants : Prop :=
  ∀ s : State, s.Inv → ∃ s' : State, step s = .next s'

/-- Every attempt ends (60_exceptions.md R170, the spec's own inference): from `RELEASE_LINE` the block
is in `DONE` after at most `1 + 4*T + 40*T + 1` clock edges without reset, whatever the line does. -/
def Obligations.EveryAttemptEndsWithinItsBudget : Prop :=
  ∀ s : State, s.Inv → s.regs.st = .releaseLine →
    s.noResetFor (1 + 4 * s.regs.T.toNat + 40 * s.regs.T.toNat + 1) →
    ∃ (n : Nat) (s' : State), n ≤ 1 + 4 * s.regs.T.toNat + 40 * s.regs.T.toNat + 1 ∧
      run n s = .next s' ∧ s'.regs.st = .done

/-! ## A choice of the model at the ports -/

/-- After a timeout-class error the four result ports are absent. This is the model's choice
(assumption 6): the spec leaves the ports unspecified there and lets a model show them as absent or as
a free draw (10_state.md section 6; 93_implementation_defined.md U1). -/
def Obligations.ResultPortsAbsentAfterTimeoutClassError : Prop :=
  ∀ r : Regs, r.st = .done → r.err = .timeout ∨ r.err = .connect ∨ r.err = .ackLow ∨
    r.err = .ackHigh → r.outputs.frameO = none ∧ r.outputs.humO = none ∧ r.outputs.tnegO = none ∧
      r.outputs.tmagO = none
end

