-- ==== Sys2Proof/Laws/Decode.lean ====
section
/-! SUPPORT. The small lemmas of the encoding: the fields of a command word and the codes of the closed
sets (30_encoding.md R60, R61, R64). -/

namespace Sys2Proof

@[simp] theorem cmdFamily_cmdWord (family : BitVec 2) (timeout : Ticks) :
    cmdFamily (cmdWord family timeout) = family :=
  BitVec.extractLsb'_append_eq_left

@[simp] theorem cmdTimeout_cmdWord (family : BitVec 2) (timeout : Ticks) :
    cmdTimeout (cmdWord family timeout) = timeout :=
  BitVec.extractLsb'_append_eq_right

theorem cmdWord_fields (word : BitVec 17) : cmdWord (cmdFamily word) (cmdTimeout word) = word := by
  have h := BitVec.extractLsb'_append_extractLsb'_eq_extractLsb' (x := word)
    (start₁ := 0) (start₂ := 15) (len₁ := 15) (len₂ := 2) rfl
  have e : word.extractLsb' 0 17 = word := by simp
  exact h.trans e

/-- The mask `0x18000` keeps the family code of a command word and nothing of its operand (R60, R72). -/
theorem mask_cmdWord (family : BitVec 2) (timeout : Ticks) :
    cmdWord family timeout &&& 0x18000 = cmdWord family 0 := by
  have h : family &&& 3 = family := by decide +revert
  have e : (0x18000 : BitVec 17) = cmdWord 3 0 := by decide
  have z : timeout &&& 0 = 0 := BitVec.and_zero
  rw [e, cmdWord, cmdWord, BitVec.and_append, h, z, cmdWord]

@[simp] theorem Family.ofCode_code (f : Family) : Family.ofCode f.code = some f := by
  cases f <;> rfl

@[simp] theorem St.ofCode_code (st : St) : St.ofCode st.code = some st := by
  cases st <;> rfl

/-- Only family code 3 stands for no family (R61). -/
theorem Family.ofCode_eq_none (c : BitVec 2) : Family.ofCode c = none ↔ c = 3 := by
  revert c; decide

theorem Family.code_of_ofCode {c : BitVec 2} {f : Family} (h : Family.ofCode c = some f) :
    c = f.code := by
  revert c; cases f <;> decide

theorem St.code_of_ofCode {c : BitVec 4} {st : St} (h : St.ofCode c = some st) : c = st.code := by
  revert c; cases st <;> decide

end Sys2Proof
end

