-- ==== Sys2Proof/Laws/State.lean ====
section
/-! SUPPORT. One lemma per part of the state and per update of it, each true by `rfl`. -/

namespace Sys2Proof.Machine

section StateUpdates
variable (s : State) (r : Regs)

@[simp] theorem State.setRegs_regs : (s.setRegs r).regs = r := rfl
@[simp] theorem State.setRegs_env : (s.setRegs r).env = s.env := rfl
@[simp] theorem State.setRegs_now : (s.setRegs r).now = s.now := rfl
@[simp] theorem State.setRegs_sample : (s.setRegs r).sample = s.sample := rfl
@[simp] theorem State.setRegs_setRegs (q : Regs) : (s.setRegs q).setRegs r = s.setRegs r := rfl

@[simp] theorem State.mark_regs : s.mark.regs = s.regs := rfl
@[simp] theorem State.mark_inputs : s.mark.env.inputs = s.env.inputs := rfl
@[simp] theorem State.mark_edge : s.mark.env.edge = s.env.edge := rfl
@[simp] theorem State.mark_marked : s.mark.env.marked = true := rfl
@[simp] theorem State.mark_now : s.mark.now = s.now := rfl

@[simp] theorem State.tick_regs : s.tick.regs = s.regs := rfl
@[simp] theorem State.tick_inputs : s.tick.env.inputs = s.env.inputs.tail := rfl
@[simp] theorem State.tick_edge : s.tick.env.edge = s.env.edge + 1 := rfl
@[simp] theorem State.tick_marked : s.tick.env.marked = s.env.marked := rfl

@[simp] theorem State.resetRegs_regs : s.resetRegs.regs = Regs.reset := rfl
@[simp] theorem State.resetRegs_env : s.resetRegs.env = s.env := rfl

end StateUpdates

section RegisterUpdates
variable (r : Regs)

@[simp] theorem Regs.drive_pinOe (oe : Level) : (r.drive oe).pinOe = oe := rfl
@[simp] theorem Regs.raise_st (k : ErrorKind) : (r.raise k).st = .done := rfl
@[simp] theorem Regs.raise_err (k : ErrorKind) : (r.raise k).err = k := rfl

/-- `raise` writes `err` and `st`, nothing else (R152). -/
theorem Regs.raise_frame (k : ErrorKind) :
    { r.raise k with err := r.err, st := r.st } = r := rfl

/-- `Drive` writes `pin_oe`, nothing else (R42). -/
theorem Regs.drive_frame (oe : Level) : { r.drive oe with pinOe := r.pinOe } = r := rfl

@[simp] theorem Regs.reset_st : Regs.reset.st = .idle := rfl

end RegisterUpdates

/-! ## The input ports over clock edges -/

/-- The next edge's levels are the head of the list, or else free. -/
theorem Env.inputAt_zero_cons (x : Inputs) (rest : List Inputs) (n : Nat) (m : Bool) :
    Env.inputAt { inputs := x :: rest, edge := n, marked := m } 0 = x := rfl

/-- After one clock edge, the levels `k` edges ahead are those that were `k + 1` edges ahead. -/
@[simp] theorem State.tick_inputAt (s : State) (k : Nat) :
    s.tick.env.inputAt k = s.env.inputAt (k + 1) := by
  cases h : s.env.inputs <;>
    simp [State.tick, Env.inputAt, h, Nat.add_comm, Nat.add_left_comm]

@[simp] theorem State.tick_now (s : State) : s.tick.now = s.env.inputAt 1 := by
  simp [State.now]

@[simp] theorem State.mark_inputAt (s : State) (k : Nat) :
    s.mark.env.inputAt k = s.env.inputAt k := rfl

@[simp] theorem Env.withNext_inputAt_zero (e : Env) (x : Inputs) : (e.withNext x).inputAt 0 = x := rfl

/-! ## The frame store -/

theorem Frame.get_set_same (f : Frame) {i : Nat} (v : Byte) (h : i ≤ 4) : (f.set i v).get i = some v := by
  interval_cases i <;> rfl

theorem Frame.get_set_other (f : Frame) {i j : Nat} (v : Byte) (h : j ≠ i) :
    (f.set i v).get j = f.get j := by
  unfold Frame.set
  split <;> unfold Frame.get <;> split <;> simp_all

end Sys2Proof.Machine
end

