-- ==== Sys2Proof/Laws/Ops.lean ====
section
/-! SUPPORT. One lemma per shared operation that says everything it can do; later proofs cite these
instead of unfolding the operation. -/

namespace Sys2Proof.Machine

/-! ## Commands -/

/-- A DECODE command: not seen while busy (R82), no register changed and the run marked on a timeout
of 0 (R84), else every register written (R80). -/
theorem State.decodeCommand_cases (s : State) (f : Family) (t : Ticks) :
    (resting s.regs.st = false ∧ s.decodeCommand f t = s) ∨
    (resting s.regs.st = true ∧ t = 0 ∧ s.decodeCommand f t = s.mark) ∨
    (resting s.regs.st = true ∧ t ≠ 0 ∧ s.decodeCommand f t = s.setRegs (Regs.started f t)) := by
  unfold State.decodeCommand
  cases resting s.regs.st
  · exact .inl ⟨rfl, rfl⟩
  · by_cases h : t = 0
    · exact .inr (.inl ⟨rfl, h, by rw [if_pos rfl, if_pos h]⟩)
    · exact .inr (.inr ⟨rfl, h, by rw [if_pos rfl, if_neg h]⟩)

/-- A reserved command: not seen while busy, else no register changed and the run marked (R83). -/
theorem State.reservedCommand_cases (s : State) :
    (resting s.regs.st = false ∧ s.reservedCommand = s) ∨
    (resting s.regs.st = true ∧ s.reservedCommand = s.mark) := by
  unfold State.reservedCommand
  cases resting s.regs.st <;> simp

/-- A resting state at a clock edge: nothing, a marked run, or a started attempt. -/
theorem State.acceptPorts_cases (s : State) (h : resting s.regs.st = true) :
    (s.now.start = false ∧ s.acceptPorts = s) ∨
    (s.now.start = true ∧ (Family.ofCode s.now.family = none ∨ s.now.timeout = 0) ∧
      s.acceptPorts = s.mark) ∨
    (∃ f, s.now.start = true ∧ Family.ofCode s.now.family = some f ∧ s.now.timeout ≠ 0 ∧
      s.acceptPorts = s.setRegs (Regs.started f s.now.timeout)) := by
  unfold State.acceptPorts
  cases hs : s.now.start with
  | false => exact .inl ⟨rfl, by simp⟩
  | true =>
    cases hf : Family.ofCode s.now.family with
    | none =>
      refine .inr (.inl ⟨rfl, .inl rfl, ?_⟩)
      rcases s.reservedCommand_cases with ⟨h', -⟩ | ⟨-, e⟩
      · simp [h] at h'
      · simpa using e
    | some f =>
      rcases s.decodeCommand_cases f s.now.timeout with ⟨h', -⟩ | ⟨-, ht, e⟩ | ⟨-, ht, e⟩
      · simp [h] at h'
      · exact .inr (.inl ⟨rfl, .inr ht, by simpa using e⟩)
      · exact .inr (.inr ⟨f, rfl, rfl, ht, by simpa using e⟩)

/-! ## Polling -/

/-- A tick without the awaited event: the error exit at the last unit of budget, else one unit less. -/
theorem Regs.miss_cases (r : Regs) (k : ErrorKind) :
    (r.cnt = 1 ∧ r.miss k = { r with cnt := 0, err := k, st := .done }) ∨
    (r.cnt ≠ 1 ∧ r.miss k = { r with cnt := r.cnt - 1 }) := by
  have h : (r.cnt - 1 = 0) ↔ r.cnt = 1 := by bv_omega
  unfold Regs.miss
  by_cases h1 : r.cnt = 1
  · exact .inl ⟨h1, by simp [h1, Regs.raise]⟩
  · exact .inr ⟨h1, by rw [if_neg (h.not.mpr h1)]⟩

/-- A tick of a wait: the awaited level, or else a miss (R95). -/
theorem Regs.await_cases (r : Regs) (level sample : Level) (next : St) (k : ErrorKind) :
    (sample = level ∧ r.await level sample next k = { r with cnt := r.budget, st := next }) ∨
    (sample ≠ level ∧ r.await level sample next k = r.miss k) := by
  unfold Regs.await
  by_cases h : sample = level
  · exact .inl ⟨h, by rw [if_pos h]⟩
  · exact .inr ⟨h, by rw [if_neg h]⟩

/-- A tick of the third wait: the low sample, or else a miss (R94). -/
theorem Regs.awaitFirstCell_cases (r : Regs) (sample : Level) :
    (sample = false ∧
      r.awaitFirstCell sample = { r with cnt := r.budget, prev := false, st := .bitLoop }) ∨
    (sample = true ∧ r.awaitFirstCell sample = r.miss .ackHigh) := by
  cases sample
  · exact .inl ⟨rfl, rfl⟩
  · exact .inr ⟨rfl, rfl⟩

@[simp] theorem Regs.budget_toNat (r : Regs) : r.budget.toNat = r.T.toNat := by
  have := r.T.isLt
  simp only [Regs.budget, BitVec.toNat_setWidth]
  exact Nat.mod_eq_of_lt (by omega)

/-- `2 * T` is exact in the countdown (R138). -/
@[simp] theorem Regs.doubleBudget_toNat (r : Regs) : r.doubleBudget.toNat = 2 * r.T.toNat := by
  have := r.T.isLt
  simp only [Regs.doubleBudget, BitVec.toNat_ofNat]
  exact Nat.mod_eq_of_lt (by omega)

/-! ## The bit loop -/

/-- The calibration bit's two registers over the integers, where nothing is cut (R113, R138). -/
theorem Regs.calibrate_toNat (r : Regs) (h : r.cnt.toNat < 2 ^ 15) :
    r.calibrate.floor.toNat = max r.floor.toNat r.cnt.toNat ∧
    r.calibrate.margin.toNat = div4 (r.T.toNat - max r.floor.toNat r.cnt.toNat) := by
  have hf := r.floor.isLt
  have hT := r.T.isLt
  constructor
  · simp only [Regs.calibrate, BitVec.toNat_ofNat]
    exact Nat.mod_eq_of_lt (by omega)
  · simp only [Regs.calibrate, BitVec.toNat_ofNat, div4]
    exact Nat.mod_eq_of_lt (by omega)

/-- The new bit enters `sh` at bit 0 and the bit shifted out is lost (R68). -/
theorem shiftIn_toNat (sh : Byte) (b : Level) :
    (shiftIn sh b).toNat = (2 * sh.toNat + b.toNat) % 256 := by
  revert sh; cases b <;> decide

/-- `Assemble`: the bit goes into `sh`, or completes a frame byte (R117). -/
theorem Regs.assemble_cases (r : Regs) (b : Level) :
    (r.bitInByte = 7 ∧ r.assemble b =
      { r with frame := r.frame.set r.byteIndex (shiftIn r.sh b), sh := 0, bitidx := r.bitidx + 1 }) ∨
    (r.bitInByte ≠ 7 ∧ r.assemble b = { r with sh := shiftIn r.sh b, bitidx := r.bitidx + 1 }) := by
  unfold Regs.assemble
  by_cases h : r.bitInByte = 7
  · exact .inl ⟨h, by simp [h]⟩
  · exact .inr ⟨h, by simp [h]⟩

/-- A tick is an edge exactly when the previous sample was high and this one is low (R112). -/
@[simp] theorem fallingEdge_iff (prev sample : Level) :
    fallingEdge prev sample = true ↔ prev = true ∧ sample = false := by
  simp [fallingEdge]

/-- Which ticks would write outside the frame store (R38). -/
theorem Regs.writesOutsideFrame_iff (r : Regs) (sample : Level) :
    r.writesOutsideFrame sample = true ↔
      fallingEdge r.prev sample = true ∧ r.bitInByte = 7 ∧ 4 < r.byteIndex := by
  unfold Regs.writesOutsideFrame
  simp [and_assoc]

/-- A tick of the bit loop: an edge, the `Timeout` exit, or one unit of budget less (R110, R119). -/
theorem Regs.bitTick_cases (r : Regs) (sample : Level) :
    (r.prev = true ∧ sample = false ∧ r.bitTick sample = { r.endCell with prev := false }) ∨
    (fallingEdge r.prev sample = false ∧ r.cnt = 1 ∧
      r.bitTick sample = { r with cnt := 0, err := .timeout, st := .done, prev := sample }) ∨
    (fallingEdge r.prev sample = false ∧ r.cnt ≠ 1 ∧
      r.bitTick sample = { r with cnt := r.cnt - 1, prev := sample }) := by
  unfold Regs.bitTick
  cases he : fallingEdge r.prev sample with
  | true =>
    have : r.prev = true ∧ sample = false := by simpa [fallingEdge] using he
    exact .inl ⟨this.1, this.2, by simp [this.2]⟩
  | false =>
    rcases r.miss_cases .timeout with ⟨h, e⟩ | ⟨h, e⟩
    · exact .inr (.inl ⟨rfl, h, by simp [e]⟩)
    · exact .inr (.inr ⟨rfl, h, by simp [e]⟩)

/-- The registers an edge tick leaves alone (R110). -/
theorem Regs.endCell_frame (r : Regs) :
    r.endCell.fam = r.fam ∧ r.endCell.T = r.T ∧ r.endCell.prev = r.prev ∧ r.endCell.err = r.err ∧
    r.endCell.hum = r.hum ∧ r.endCell.tneg = r.tneg ∧ r.endCell.tmag = r.tmag ∧
    r.endCell.pinOe = r.pinOe := by
  unfold Regs.endCell Regs.measured
  rcases Regs.assemble_cases (if r.calibrating = true then r.calibrate else r) r.receivedBit
    with ⟨-, e⟩ | ⟨-, e⟩ <;> simp only [e] <;> split <;> simp [Regs.calibrate]

/-! ## Validation -/

/-- The checksum test over the integers (R132). -/
theorem Frame.checksumOk_iff (f : Frame) : f.checksumOk = true ↔
    (f.b0.toNat + f.b1.toNat + f.b2.toNat + f.b3.toNat) % 256 = f.b4.toNat := by
  have h0 := f.b0.isLt
  have h1 := f.b1.isLt
  have h2 := f.b2.isLt
  have h3 := f.b3.isLt
  have h4 := f.b4.isLt
  rw [Frame.checksumOk, beq_iff_eq, ← BitVec.toNat_inj]
  simp only [Frame.sum, BitVec.extractLsb'_toNat, BitVec.toNat_add, BitVec.toNat_setWidth,
    Nat.shiftRight_zero]
  omega

/-- The decoder writes the three reading registers, nothing else (R134 to R136). -/
theorem Regs.decodeFields_frame (r : Regs) :
    { r.decodeFields with hum := r.hum, tneg := r.tneg, tmag := r.tmag } = r := by
  obtain ⟨st, fam, T, cnt, prev, bitidx, sh, frame, floor, margin, err, hum, tneg, tmag, pinOe⟩ := r
  cases fam <;> rfl

end Sys2Proof.Machine
end

