-- ==== Sys2Proof/Laws/PerInstr.lean ====
section
/-! SUPPORT. Laws of every instruction, one lemma per constructor: its encoding fits its own row of
spec/opcode_table.json (30_encoding.md R72), whatever its operand is. -/

namespace Sys2Proof.Laws.FitsItsRow

/-- The encoded word, masked, is the row's `match` value. -/
def Statement (i : Instr) : Prop := fitsRow (encode i) (tableRow i) = true

theorem decodeT11 (timeout : Ticks) : Statement (.decodeT11 timeout) := by
  simp only [Statement, encode, tableRow, fitsRow, mask_cmdWord]
  decide
theorem decodeT21 (timeout : Ticks) : Statement (.decodeT21 timeout) := by
  simp only [Statement, encode, tableRow, fitsRow, mask_cmdWord]
  decide
theorem decodeT22 (timeout : Ticks) : Statement (.decodeT22 timeout) := by
  simp only [Statement, encode, tableRow, fitsRow, mask_cmdWord]
  decide
theorem cmdReserved (timeout : Ticks) : Statement (.cmdReserved timeout) := by
  simp only [Statement, encode, tableRow, fitsRow, mask_cmdWord]
  decide
theorem idle : Statement .idle := by unfold Statement; decide
theorem startPulse : Statement .startPulse := by unfold Statement; decide
theorem releaseLine : Statement .releaseLine := by unfold Statement; decide
theorem awaitSensorLow : Statement .awaitSensorLow := by unfold Statement; decide
theorem awaitAckHigh : Statement .awaitAckHigh := by unfold Statement; decide
theorem awaitAckLow : Statement .awaitAckLow := by unfold Statement; decide
theorem bitLoop : Statement .bitLoop := by unfold Statement; decide
theorem validate : Statement .validate := by unfold Statement; decide
theorem done : Statement .done := by unfold Statement; decide

end Sys2Proof.Laws.FitsItsRow
end

