-- ==== Sys2Proof/Laws/Step.lean ====
section
/-! SUPPORT. What one step can do, said once: the row a clock edge looks up, the registers a step leaves,
and the inversion of a step that answers a next state. -/

namespace Sys2Proof.Machine

/-- Every clock edge looks up a row of the table (R72): no state code in `st` is unused. -/
theorem State.decode_fetchWord (s : State) :
    decode s.fetchWord = .ok (if resting s.regs.st && s.now.start then
      commandOf s.now.family s.now.timeout else operationOf s.regs.st) := by
  unfold State.fetchWord
  split <;> simp [decode]

/-- The four `CMD` rows run as one operation each. -/
theorem exec_commandOf (c : BitVec 2) (t : Ticks) (s : State) :
    exec (commandOf c t) s = .next (match Family.ofCode c with
      | some f => s.decodeCommand f t
      | none => s.reservedCommand) := by
  unfold commandOf
  rcases h : Family.ofCode c with - | f
  · rfl
  · cases f <;> rfl

/-- At rest, the row of the command and the row of the state do the same (R72, R80, R156). -/
theorem exec_commandOf_eq_acceptPorts (s : State) (h : s.now.start = true) :
    exec (commandOf s.now.family s.now.timeout) s = .next s.acceptPorts := by
  cases hf : Family.ofCode s.now.family <;> simp [exec_commandOf, State.acceptPorts, h, hf]

/-- A step at rest without reset. -/
theorem step_resting (s : State) (hr : s.now.rst = false) (h : resting s.regs.st = true) :
    step s = .next s.acceptPorts.tick := by
  unfold step
  rw [hr, State.decode_fetchWord, h]
  cases hs : s.now.start with
  | true => simp [exec_commandOf_eq_acceptPorts s hs]
  | false =>
    rcases s with ⟨⟨st, _⟩, _⟩
    cases st <;> first | rfl | simp [resting] at h

/-- A step of a busy state without reset runs the operation of the state. -/
theorem step_busy (s : State) (hr : s.now.rst = false) (h : resting s.regs.st = false) :
    step s = match exec (operationOf s.regs.st) s with
      | .next s' => .next s'.tick
      | .fault r => .fault r
      | .refused r => .refused r := by
  unfold step
  rw [hr, State.decode_fetchWord, h]
  rfl

/-- The reset step (R180). -/
theorem step_reset (s : State) (hr : s.now.rst = true) : step s = .next s.resetRegs.tick := by
  unfold step
  rw [hr]
  rfl

@[simp] theorem run_zero (s : State) : run 0 s = .next s := rfl

/-- A run of `n + 1` edges goes on from the state of its first step. -/
theorem run_succ {s s' : State} (n : Nat) (h : step s = .next s') : run (n + 1) s = run n s' := by
  simp [run, h]

/-- What every step that answers a next state has done. -/
theorem step_cases {s s' : State} (h : step s = .next s') :
    (s.now.rst = true ∧ s' = s.resetRegs.tick) ∨
    (s.now.rst = false ∧ resting s.regs.st = true ∧ s' = s.acceptPorts.tick) ∨
    (s.now.rst = false ∧ s.regs.st = .startPulse ∧
      s' = (s.setRegs (s.regs.holdPulse s.now.delayDone)).tick) ∨
    (s.now.rst = false ∧ s.regs.st = .releaseLine ∧ s' = (s.setRegs s.regs.release).tick) ∨
    (s.now.rst = false ∧ s.regs.st = .awaitSensorLow ∧
      s' = (s.setRegs (s.regs.await false s.sample .awaitAckHigh .connect)).tick) ∨
    (s.now.rst = false ∧ s.regs.st = .awaitAckHigh ∧
      s' = (s.setRegs (s.regs.await true s.sample .awaitAckLow .ackLow)).tick) ∨
    (s.now.rst = false ∧ s.regs.st = .awaitAckLow ∧
      s' = (s.setRegs (s.regs.awaitFirstCell s.sample)).tick) ∨
    (s.now.rst = false ∧ s.regs.st = .bitLoop ∧ s.regs.writesOutsideFrame s.sample = false ∧
      s' = (s.setRegs (s.regs.bitTick s.sample)).tick) ∨
    (s.now.rst = false ∧ s.regs.st = .validate ∧
      s' = (s.setRegs (s.regs.decodeFields.raise s.regs.frame.verdict)).tick) := by
  cases hr : s.now.rst with
  | true =>
    rw [step_reset s hr] at h
    exact .inl ⟨rfl, by simpa using h.symm⟩
  | false =>
    refine .inr ?_
    cases hrest : resting s.regs.st with
    | true =>
      rw [step_resting s hr hrest] at h
      exact .inl ⟨rfl, rfl, by simpa using h.symm⟩
    | false =>
      rw [step_busy s hr hrest] at h
      refine .inr ?_
      cases hst : s.regs.st with
      | idle => simp [hst, resting] at hrest
      | done => simp [hst, resting] at hrest
      | bitLoop =>
        simp only [hst, operationOf, exec, execBitLoop] at h
        cases hw : s.regs.writesOutsideFrame s.sample with
        | true => simp [hw] at h
        | false =>
          simp only [hw] at h
          simpa using h.symm
      | startPulse => simpa [hst, operationOf, exec, execStartPulse] using h.symm
      | releaseLine => simpa [hst, operationOf, exec, execReleaseLine] using h.symm
      | awaitSensorLow => simpa [hst, operationOf, exec, execAwaitSensorLow] using h.symm
      | awaitAckHigh => simpa [hst, operationOf, exec, execAwaitAckHigh] using h.symm
      | awaitAckLow => simpa [hst, operationOf, exec, execAwaitAckLow] using h.symm
      | validate => simpa [hst, operationOf, exec, execValidate] using h.symm

end Sys2Proof.Machine
end

