-- ==== Sys2Proof/Tests/Slice0.lean ====
section
/-! SUPPORT. The model's own tests: ill-formed instructions, decoding of words written out from the spec's
encodings (30_encoding.md R60, R61, R64), single steps with the results the spec gives
(95_test_vectors.md, each vector named by its id), and for every statement of
Sys2Proof/Certificates/Slice0/Obligations.lean with hypotheses a witness that meets them together. -/

namespace Sys2Proof.Machine.Slice0

/-! ## Ill-formed instructions (R73) -/

theorem test_illformed_timeout_zero_t11 : Instr.wellFormed (.decodeT11 0) = false := by decide
theorem test_illformed_timeout_zero_t21 : Instr.wellFormed (.decodeT21 0) = false := by decide
theorem test_illformed_timeout_zero_t22 : Instr.wellFormed (.decodeT22 0) = false := by decide
theorem test_illformed_reserved_family : Instr.wellFormed (.cmdReserved 16) = false := by decide
theorem test_wellformed_bounds : Instr.wellFormed (.decodeT11 1) = true ∧
    Instr.wellFormed (.decodeT22 32767) = true ∧ Instr.wellFormed .done = true := by decide

/-! ## Decoding: `{family, timeout}` and `st`, bit by bit (R60, R61, R64) -/

theorem test_decode_t11 : decode (.cmd 0b00_000000000010000) = .ok (.decodeT11 16) := by rfl
theorem test_decode_t21 : decode (.cmd 0b01_000000000010000) = .ok (.decodeT21 16) := by rfl
theorem test_decode_t22 : decode (.cmd 0b10_100000000000001) = .ok (.decodeT22 16385) := by rfl
theorem test_decode_reserved : decode (.cmd 0b11_111111111111111) = .ok (.cmdReserved 32767) := by rfl
theorem test_decode_idle : decode (.state 0b0000) = .ok .idle := by rfl
theorem test_decode_startPulse : decode (.state 0b0001) = .ok .startPulse := by rfl
theorem test_decode_releaseLine : decode (.state 0b0010) = .ok .releaseLine := by rfl
theorem test_decode_awaitSensorLow : decode (.state 0b0011) = .ok .awaitSensorLow := by rfl
theorem test_decode_awaitAckHigh : decode (.state 0b0100) = .ok .awaitAckHigh := by rfl
theorem test_decode_awaitAckLow : decode (.state 0b0101) = .ok .awaitAckLow := by rfl
theorem test_decode_bitLoop : decode (.state 0b0110) = .ok .bitLoop := by rfl
theorem test_decode_validate : decode (.state 0b0111) = .ok .validate := by rfl
theorem test_decode_done : decode (.state 0b1000) = .ok .done := by rfl
theorem test_decode_unused_first : decode (.state 0b1001) = .error .unusedStateCode := by rfl
theorem test_decode_unused_last : decode (.state 0b1111) = .error .unusedStateCode := by rfl
theorem test_decode_table_word : decodeTableWord 24 0x08010 = some (.decodeT21 16) ∧
    decodeTableWord 8 0x08 = some .done ∧ decodeTableWord 8 0x09 = none := by decide

/-! ## Small states -/

/-- A clock edge with nothing on the host's ports, the line pulled up, no answer of the delay. -/
def high : Inputs :=
  { rst := false, start := false, family := 0, timeout := 0, pinIn := true, delayDone := false }
/-- The same with the line low. -/
def low : Inputs := { high with pinIn := false }
/-- A clock edge with a command on the host's ports. -/
def request (family : BitVec 2) (timeout : Ticks) : Inputs :=
  { high with start := true, family := family, timeout := timeout }
/-- A clock edge with `rst = 1` and a command beside it. -/
def resetEdge : Inputs := { request 2 16 with rst := true }
/-- A clock edge with the delay collaborator's answer. -/
def delayOver : Inputs := { high with delayDone := true }

/-- A state with these registers, these levels at the coming edges. -/
def stateOf (r : Regs) (inputs : List Inputs) : State :=
  { regs := r, env := { inputs := inputs, edge := 0, marked := false } }

/-- The next state of an outcome, if it is one. -/
def after : Host.Outcome State Fault Refusal → Option State
  | .next s => some s
  | .fault _ => none
  | .refused _ => none

/-- The registers after one step at these levels. -/
def regsAfter (r : Regs) (x : Inputs) : Option Regs := (after (step (stateOf r [x]))).map State.regs

/-- A Type11 attempt with `T = 4` in a state of the handshake (the vectors V11 to V19). -/
def inWait (st : St) (cnt : Count) : Regs := { Regs.reset with st := st, T := 4, cnt := cnt }
/-- A Type22 attempt with `T = 16` in `BIT_LOOP` (the vectors V20 to V25f). -/
def inLoop (prev : Level) (cnt : Count) (bitidx : BitIndex) (floor margin : Ticks) : Regs :=
  { Regs.reset with st := .bitLoop, fam := .type22, T := 16, cnt := cnt, prev := prev,
                    bitidx := bitidx, floor := floor, margin := margin }
/-- An attempt with `T = 16` in `VALIDATE`, the frame complete. -/
def received (fam : Family) (frame : Frame) : Regs :=
  { Regs.reset with st := .validate, fam := fam, T := 16, cnt := 16, bitidx := 40,
                    frame := frame, floor := 12, margin := 1 }
/-- The end state of program P4: `DONE` after a checksum error (also the state before V6). -/
def checksumDone : Regs :=
  { received .type22 ⟨0x01, 0x90, 0x00, 0xFA, 0x8C⟩ with st := .done, err := .checksum, hum := 400, tmag := 250 }
/-- The end state of program P7: `DONE` after `Connect`. -/
def connectDone : Regs := { Regs.reset with st := .done, fam := .type21, T := 16, err := .connect }
/-- What `VALIDATE` shows of a frame: `err`, `hum`, `tneg`, `tmag`. -/
def verdictOf (fam : Family) (frame : Frame) : Option (ErrorKind × Tenths × Level × Tenths) :=
  (regsAfter (received fam frame) high).map fun r => (r.err, r.hum, r.tneg, r.tmag)

/-! ## Single steps (95_test_vectors.md) -/

theorem test_V1_decode_t22 : regsAfter Regs.reset (request 2 16) =
    some { Regs.reset with st := .startPulse, fam := .type22, T := 16, pinOe := true } := by decide
theorem test_V2_decode_t11 : (regsAfter Regs.reset (request 0 800)).map
    (fun r => (r.fam, r.T, r.outputs.delayReq, r.outputs.delayMs)) = some (.type11, 800, true, 18) := by
  decide
theorem test_V6_decode_clears_old_result : regsAfter checksumDone (request 0 16) =
    some { Regs.reset with st := .startPulse, fam := .type11, T := 16, pinOe := true } := by decide
theorem test_V9a_decode_t21_largest_timeout : regsAfter Regs.reset (request 1 32767) =
    some { Regs.reset with st := .startPulse, fam := .type21, T := 32767, pinOe := true } := by decide
theorem test_V3_idle_holds : regsAfter Regs.reset high = some Regs.reset := by decide
theorem test_V4_reserved_in_idle : (after (step (stateOf Regs.reset [request 3 16]))).map
    (fun s => (s.regs, s.env.marked)) = some (Regs.reset, true) := by decide
theorem test_V7_reserved_in_done : regsAfter connectDone (request 3 5) = some connectDone := by decide
theorem test_V5_zero_timeout : (after (step (stateOf Regs.reset [request 1 0]))).map
    (fun s => (s.regs, s.env.marked)) = some (Regs.reset, true) := by decide
theorem test_R156_done_holds : regsAfter checksumDone low = some checksumDone := by decide

theorem test_V9_startPulse_holds :
    regsAfter { Regs.reset with st := .startPulse, T := 4, pinOe := true } (request 2 7) =
      some { Regs.reset with st := .startPulse, T := 4, pinOe := true } := by decide
theorem test_V10b_startPulse_ends :
    regsAfter { Regs.reset with st := .startPulse, T := 4, pinOe := true } delayOver =
      some { Regs.reset with st := .releaseLine, T := 4, pinOe := true } := by decide
theorem test_V10c_releaseLine :
    regsAfter { Regs.reset with st := .releaseLine, T := 16, pinOe := true } low =
      some { Regs.reset with st := .awaitSensorLow, T := 16, cnt := 32 } := by decide
theorem test_V10d_releaseLine_largest :
    regsAfter { Regs.reset with st := .releaseLine, T := 32767, pinOe := true } low =
      some { Regs.reset with st := .awaitSensorLow, T := 32767, cnt := 65534 } := by decide
theorem test_V12_awaitSensorLow_last_unit :
    regsAfter (inWait .awaitSensorLow 1) low = some (inWait .awaitAckHigh 4) := by decide
theorem test_V13_awaitSensorLow_connect : regsAfter (inWait .awaitSensorLow 1) high =
    some { inWait .done 0 with err := .connect } := by decide
theorem test_V14_awaitAckHigh : regsAfter (inWait .awaitAckHigh 1) high =
    some (inWait .awaitAckLow 4) := by decide
theorem test_V15_awaitAckHigh_ackLow : regsAfter (inWait .awaitAckHigh 1) low =
    some { inWait .done 0 with err := .ackLow } := by decide
theorem test_V17_awaitAckLow : regsAfter { inWait .awaitAckLow 1 with prev := true } low =
    some (inWait .bitLoop 4) := by decide
theorem test_V18_awaitAckLow_ackHigh : regsAfter (inWait .awaitAckLow 1) high =
    some { inWait .done 0 with err := .ackHigh } := by decide

theorem test_V23_calibrate : regsAfter (inLoop true 13 3 12 1) low =
    some (inLoop false 16 4 13 0) := by decide
theorem test_V24_calibrate_keeps_maximum : regsAfter (inLoop true 10 3 12 1) low =
    some (inLoop false 16 4 12 1) := by decide
theorem test_V25a_classify_equal : regsAfter (inLoop true 11 6 12 1) low =
    some { inLoop false 16 7 12 1 with sh := 1 } := by decide
theorem test_V25c_last_bit :
    regsAfter { inLoop true 9 39 12 1 with
      sh := 0b1000101, frame := ⟨0x01, 0x90, 0x00, 0xFA, 0x00⟩ } low =
    some { inLoop false 16 40 12 1 with st := .validate, frame := ⟨0x01, 0x90, 0x00, 0xFA, 0x8B⟩ } := by
  decide
theorem test_V25d_edge_at_last_unit : regsAfter (inLoop true 1 10 12 1) low =
    some { inLoop false 16 11 12 1 with sh := 1 } := by decide
theorem test_V25f_timeout : regsAfter (inLoop false 1 10 12 1) low =
    some { inLoop false 0 10 12 1 with st := .done, err := .timeout } := by decide
/-- 42_bitloop.md R116 (V37): `floor = 1`, `margin = 2`, `rem = 1` reads 0. -/
theorem test_V37_no_wrap_around : (regsAfter { inLoop true 1 1 1 2 with fam := .type11, T := 10 } low).map
    (fun r => (r.bitidx, r.sh)) = some (2, 0) := by decide

/-- The source's own example S1. -/
theorem test_S1_validate : verdictOf .type22 ⟨0x01, 0x90, 0x00, 0xFA, 0x8B⟩ =
    some (.ok, 400, false, 250) := by decide
/-- The source's own example S2. -/
theorem test_S2_validate : verdictOf .type21 ⟨0x02, 0x2B, 0x80, 0x69, 0x16⟩ =
    some (.ok, 555, true, 105) := by decide
/-- The source's own example S3. -/
theorem test_S3_validate : verdictOf .type11 ⟨0x2D, 0x00, 0x17, 0x00, 0x44⟩ =
    some (.ok, 450, false, 230) := by decide
theorem test_V42_validate_carries : verdictOf .type22 ⟨0x03, 0xFF, 0xFF, 0xFF, 0xFF⟩ =
    some (.checksum, 1023, true, 1023) := by decide
theorem test_V54_validate_raw_checksum : verdictOf .type21 ⟨0x01, 0x90, 0x04, 0xFA, 0x8F⟩ =
    some (.ok, 400, false, 250) := by decide
theorem test_V58_validate_type11_masks : verdictOf .type11 ⟨0x2D, 0x00, 0x97, 0x00, 0xC4⟩ =
    some (.ok, 450, false, 230) := by decide

/-- P8 step 6: reset in the middle of the bit loop, a command on the ports at the same edge. -/
theorem test_P8_reset_in_bitLoop : regsAfter (inLoop true 9 10 12 1) resetEdge = some Regs.reset := by
  decide
/-- The ports at the end of P4: the frame may be read, the reading may not. -/
theorem test_P4_ports : (checksumDone.outputs.frameO, checksumDone.outputs.frameValid,
    checksumDone.outputs.readingValid, checksumDone.outputs.err) =
    (some 0x019000FA8C, true, false, 1) := by decide
/-- The ports at the end of P7: no frame, no reading. -/
theorem test_P7_ports : (connectDone.outputs.frameO, connectDone.outputs.humO,
    connectDone.outputs.done, connectDone.outputs.err) = (none, none, true, 3) := by decide

/-! ## The host's placing of a word (assumption 11) -/

/-- Every row of the opcode table runs as the first step after reset. -/
theorem test_withFetchWord_every_row :
    [(24, 0x00010), (24, 0x08010), (24, 0x10010), (24, 0x18000), (8, 0), (8, 1), (8, 2), (8, 3), (8, 4),
      (8, 5), (8, 6), (8, 7), (8, 8)].all
      (fun row => (after (step (State.reset.withFetchWord row.1 row.2))).isSome) = true := by decide
/-- A command placed in a busy state is accepted by the very next step. -/
theorem test_withFetchWord_busy :
    (after (step ((stateOf (inLoop true 12 0 0 0) []).withFetchWord 24 0x08010))).map
      (fun s => (s.regs.st, s.regs.fam, s.regs.T)) = some (.startPulse, .type21, 16) := by decide

/-! ## States that meet the invariants -/

/-- R37 as a computation, for concrete registers. -/
def invCheck (r : Regs) : Bool :=
  decide ((polling r.st = true → 1 ≤ r.cnt.toNat) ∧
    (r.st = .awaitSensorLow → r.cnt.toNat ≤ 2 * r.T.toNat) ∧
    (r.st = .awaitAckHigh ∨ r.st = .awaitAckLow ∨ r.st = .bitLoop → r.cnt.toNat ≤ r.T.toNat) ∧
    (r.st ≠ .idle → 1 ≤ r.T.toNat) ∧ r.bitidx.toNat ≤ 40 ∧ (r.st = .bitLoop → r.bitidx.toNat ≤ 39) ∧
    (r.st = .startPulse ∨ r.st = .releaseLine ∨ r.st = .awaitSensorLow ∨ r.st = .awaitAckHigh ∨
      r.st = .awaitAckLow → r.bitidx = 0) ∧ (r.st = .validate → r.bitidx.toNat = 40) ∧
    r.sh.toNat < 2 ^ r.bitInByte ∧
    (1 ≤ r.bitidx.toNat → r.floor.toNat + 1 ≤ r.T.toNat ∧
      r.margin.toNat = div4 (r.T.toNat - r.floor.toNat)) ∧
    (r.bitidx = 0 → r.floor = 0 ∧ r.margin = 0)) &&
  (List.range 5).all (fun i => decide (r.byteIndex ≤ i → r.frame.get i = some 0)) &&
  decide (r.frame.b0.toNat < 2 ^ (8 - nlz r.fam) ∧
    (r.pinOe = true ↔ r.st = .startPulse ∨ r.st = .releaseLine) ∧
    (r.bitidx.toNat < 8 → r.sh.toNat < 2 ^ (r.bitidx.toNat - nlz r.fam)) ∧
    (r.st = .bitLoop → r.prev = true → r.cnt.toNat + 1 ≤ r.T.toNat))

theorem inv_of_check {r : Regs} (h : invCheck r = true) : r.Inv := by
  simp only [invCheck, Bool.and_eq_true, decide_eq_true_eq, List.all_eq_true, List.mem_range] at h
  obtain ⟨⟨⟨h1, h2, h3, h4, h5, h6, h7, h8, h9, h10, h11⟩, h12⟩, h13, h14, h15, h16⟩ := h
  refine ⟨h1, h2, h3, h4, h5, h6, h7, h8, h9, h10, h11, fun i v hi hv => ?_, h13, h14, h15, h16⟩
  by_cases h : i < 5
  · rw [h12 i h hi] at hv
    exact (Option.some.inj hv).symm
  · match i with
    | 0 | 1 | 2 | 3 | 4 => omega
    | n + 5 => simp [Frame.get] at hv

/-! ## Witnesses: every statement's hypotheses are met together -/

theorem witness_DecodeAndEncodeAgree : decode (.cmd 0x1FFFF) = .ok (.cmdReserved 32767) ∧
    decode (.state 8) = .ok .done := by constructor <;> rfl
theorem witness_DecoderFollowsTheOpcodeTable :
    (0x07FFF : BitVec 17) &&& 0x18000 = 0x00000 ∧ (0x08000 : BitVec 17) &&& 0x18000 = 0x08000 ∧
    (0x17FFF : BitVec 17) &&& 0x18000 = 0x10000 ∧ (0x18000 : BitVec 17) &&& 0x18000 = 0x18000 ∧
    8 < (9 : BitVec 4).toNat ∧ 8 < (15 : BitVec 4).toNat := by decide
theorem witness_OpcodeRowsDoNotOverlap :
    fitsRow (.cmd 0x10010) (tableRow (.decodeT22 16)) = true ∧
    fitsRow (.cmd 0x10010) (tableRow (.decodeT22 1)) = true ∧
    fitsRow (.cmd 0x1FFFF) (tableRow (.cmdReserved 32767)) = true ∧
    FetchWord.operand (.cmd 0x1FFFF) = Instr.operand (.cmdReserved 32767) ∧
    fitsRow (.state 8) (tableRow .done) = true ∧
    FetchWord.operand (.state 8) = Instr.operand .done := by decide
theorem witness_StepRunsTheDecodedInstruction :
    ((stateOf Regs.reset [request 2 16]).now.rst = false ∧
      decode (stateOf Regs.reset [request 2 16]).fetchWord = .ok (.decodeT22 16)) ∧
    ((stateOf (inWait .awaitAckHigh 1) [low]).now.rst = false ∧
      decode (stateOf (inWait .awaitAckHigh 1) [low]).fetchWord = .ok .awaitAckHigh) := by
  refine ⟨⟨?_, ?_⟩, ?_, ?_⟩ <;> rfl
theorem witness_PlacedWordIsLookedUpNext :
    decodeTableWord 24 0x10010 = some (.decodeT22 16) ∧ decodeTableWord 8 6 = some .bitLoop := by decide
theorem witness_CommandRowAgreesWithStateRow :
    (resting (stateOf Regs.reset [request 2 16]).regs.st = true ∧
      (stateOf Regs.reset [request 2 16]).now.start = true) ∧
    (resting (stateOf checksumDone [request 3 0]).regs.st = true ∧
      (stateOf checksumDone [request 3 0]).now.start = true) ∧
    resting (stateOf (inLoop true 12 0 0 0) [low]).regs.st = false := by decide
/-- A state and the state one step later: for the statements about `step s = .next s'`. -/
theorem witness_step_accepts : step (stateOf Regs.reset [request 2 16]) =
    .next { regs := startColumn .type22 16, env := { inputs := [], edge := 1, marked := false } } := by rfl
theorem witness_step_marks : step (stateOf Regs.reset [request 3 16]) =
    .next { regs := Regs.reset, env := { inputs := [], edge := 1, marked := true } } := by rfl
theorem witness_step_resets : step (stateOf connectDone [resetEdge]) =
    .next { regs := Regs.reset, env := { inputs := [], edge := 1, marked := false } } := by rfl
theorem witness_StepConsumesOneEdgeAndMarksIllegalCommands :
    (∃ s', step (stateOf Regs.reset [request 2 16]) = .next s') ∧
    illegalCommand (stateOf Regs.reset [request 1 0]).now = true :=
  ⟨⟨_, witness_step_accepts⟩, by decide⟩
theorem witness_ResetEdgeWritesEveryRegister : (stateOf checksumDone [resetEdge]).now.rst = true := by decide
theorem witness_ResetAndStartColumns :
    (stateOf checksumDone [request 2 1]).now.rst = false ∧
    resting (stateOf checksumDone [request 2 1]).regs.st = true ∧
    (stateOf checksumDone [request 2 1]).now.start = true ∧
    (stateOf checksumDone [request 2 1]).now.family = Family.type22.code ∧
    (stateOf checksumDone [request 2 1]).now.timeout ≠ 0 := by decide
theorem witness_DecodeCommandStartsAnAttempt :
    (resting (stateOf Regs.reset []).regs.st = true ∧ (32767 : Ticks) ≠ 0) ∧
    ((stateOf Regs.reset [request 0 1]).regs.st = .idle ∧ (stateOf Regs.reset [request 0 1]).now.start = true ∧
      (stateOf Regs.reset [request 0 1]).now.family = Family.type11.code ∧
      (stateOf Regs.reset [request 0 1]).now.timeout ≠ 0) ∧
    ((stateOf Regs.reset [high]).regs.st = .idle ∧ (stateOf Regs.reset [high]).now.start = false) ∧
    ((stateOf Regs.reset [request 3 1]).now.family = 3 ∧ (stateOf Regs.reset [request 2 0]).now.timeout = 0) := by
  decide
theorem witness_DoneAcceptsALegalCommandOrHolds :
    ((stateOf checksumDone [request 1 32767]).regs.st = .done ∧
      (stateOf checksumDone [request 1 32767]).now.start = true ∧
      (stateOf checksumDone [request 1 32767]).now.family = Family.type21.code ∧
      (stateOf checksumDone [request 1 32767]).now.timeout ≠ 0) ∧
    ((stateOf checksumDone [request 3 1]).regs.st = .done ∧ (stateOf checksumDone [request 3 1]).now.family = 3) ∧
    ((stateOf checksumDone [high]).regs.st = .done ∧ (stateOf checksumDone [high]).now.start = false) := by decide
theorem witness_DoneAcceptsALegalCommandOrHolds_inv : checksumDone.Inv ∧ checksumDone.st = .done :=
  ⟨inv_of_check (by decide), rfl⟩
theorem witness_ReservedCommandChangesNoRegister :
    (stateOf connectDone [request 3 5]).now.rst = false ∧
    resting (stateOf connectDone [request 3 5]).regs.st = true ∧
    (stateOf connectDone [request 3 5]).now.start = true ∧
    (stateOf connectDone [request 3 5]).now.family = 3 := by decide
theorem witness_ZeroTimeoutChangesNoRegister :
    (stateOf connectDone [request 1 0]).now.rst = false ∧
    resting (stateOf connectDone [request 1 0]).regs.st = true ∧
    (stateOf connectDone [request 1 0]).now.start = true ∧
    (stateOf connectDone [request 1 0]).now.timeout = 0 := by decide
theorem witness_StartWhileBusyIsIgnored : resting (stateOf (inLoop true 12 0 0 0) [low]).regs.st = false := by
  decide
theorem witness_FamilyAndTimeoutAreLatched :
    ((stateOf Regs.reset [request 2 16]).now.rst = false ∧
      resting (stateOf Regs.reset [request 2 16]).regs.st = true ∧
      (stateOf Regs.reset [request 2 16]).now.start = true ∧
      (stateOf Regs.reset [request 2 16]).now.family = Family.type22.code ∧
      (stateOf Regs.reset [request 2 16]).now.timeout ≠ 0) ∧
    ((stateOf (inWait .awaitAckHigh 1) [high]).now.rst = false ∧
      resting (stateOf (inWait .awaitAckHigh 1) [high]).regs.st = false ∧
      ∃ s', step ((stateOf (inWait .awaitAckHigh 1) [high]).withHostPorts true 2 16) = .next s') := by
  refine ⟨by decide, by decide, by decide, _, rfl⟩
theorem witness_AcceptedCommandErasesThePast :
    (stateOf checksumDone [request 2 16]).env = (stateOf Regs.reset [request 2 16]).env ∧
    resting (stateOf checksumDone [request 2 16]).regs.st = true ∧
    resting (stateOf Regs.reset [request 2 16]).regs.st = true ∧
    (stateOf checksumDone [request 2 16]).now.rst = false ∧
    legalCommand (stateOf checksumDone [request 2 16]).now = true := by decide
theorem witness_StartPulseHoldsUntilDelayDone :
    (stateOf (startColumn .type11 4) [delayOver]).regs.st = .startPulse ∧
    (stateOf (startColumn .type11 4) [delayOver]).now.delayDone = true ∧
    (stateOf (startColumn .type22 4) [high]).now.delayDone = false := by decide
theorem witness_StartPulseHoldsUntilDelayDone_inv :
    (startColumn .type11 1).Inv ∧ (startColumn .type22 32767).Inv :=
  ⟨inv_of_check (by decide), inv_of_check (by decide)⟩
theorem witness_AwaitSensorLowTick :
    (stateOf (inWait .awaitSensorLow 1) [low]).now.pinIn = false ∧
    ((stateOf (inWait .awaitSensorLow 1) [high]).now.pinIn = true ∧ (inWait .awaitSensorLow 1).cnt.toNat = 1) ∧
    ((stateOf (inWait .awaitSensorLow 2) [high]).now.pinIn = true ∧
      1 < (inWait .awaitSensorLow 2).cnt.toNat) ∧ (inWait .awaitSensorLow 2).st = .awaitSensorLow := by decide
theorem witness_AwaitAckHighTick :
    (stateOf (inWait .awaitAckHigh 1) [high]).now.pinIn = true ∧
    ((stateOf (inWait .awaitAckHigh 1) [low]).now.pinIn = false ∧ (inWait .awaitAckHigh 1).cnt.toNat = 1) ∧
    ((stateOf (inWait .awaitAckHigh 2) [low]).now.pinIn = false ∧
      1 < (inWait .awaitAckHigh 2).cnt.toNat) ∧ (inWait .awaitAckHigh 2).st = .awaitAckHigh := by decide
theorem witness_AwaitAckLowTick :
    (stateOf (inWait .awaitAckLow 1) [low]).now.pinIn = false ∧
    ((stateOf (inWait .awaitAckLow 1) [high]).now.pinIn = true ∧ (inWait .awaitAckLow 1).cnt.toNat = 1) ∧
    ((stateOf (inWait .awaitAckLow 2) [high]).now.pinIn = true ∧
      1 < (inWait .awaitAckLow 2).cnt.toNat) ∧ (inWait .awaitAckLow 2).st = .awaitAckLow := by decide
/-- V12, V13, V14, V15, V17, V18: the last sample of the budget, and one sample too few. -/
theorem witness_LawOfTheThreeWaits :
    (1 ≤ (inWait .awaitSensorLow 2).cnt.toNat ∧
      (stateOf (inWait .awaitSensorLow 2) [high, low]).noResetFor 2 ∧
      (∀ i, i < 1 → (stateOf (inWait .awaitSensorLow 2) [high, low]).sampleAt i = true) ∧
      (stateOf (inWait .awaitSensorLow 2) [high, low]).sampleAt 1 = false ∧
      (∀ i, i < 2 → (stateOf (inWait .awaitSensorLow 2) [high, high]).sampleAt i = true)) ∧
    ((stateOf (inWait .awaitAckHigh 2) [low, high]).noResetFor 2 ∧
      (∀ i, i < 1 → (stateOf (inWait .awaitAckHigh 2) [low, high]).sampleAt i = false) ∧
      (stateOf (inWait .awaitAckHigh 2) [low, high]).sampleAt 1 = true ∧
      (∀ i, i < 2 → (stateOf (inWait .awaitAckHigh 2) [low, low]).sampleAt i = false)) ∧
    ((stateOf (inWait .awaitAckLow 2) [high, low]).noResetFor 2 ∧
      (∀ i, i < 1 → (stateOf (inWait .awaitAckLow 2) [high, low]).sampleAt i = true) ∧
      (stateOf (inWait .awaitAckLow 2) [high, low]).sampleAt 1 = false ∧
      (∀ i, i < 2 → (stateOf (inWait .awaitAckLow 2) [high, high]).sampleAt i = true)) := by decide
/-- A calibration edge (the last one, `rem` above the floor), data edges (the first and the last), the
last unit of budget without an edge, and the last but one. -/
theorem witness_BitLoopTick :
    ((inLoop true 15 5 12 1).st = .bitLoop ∧ (inLoop true 15 5 12 1).bitidx.toNat ≤ 39 ∧
      (stateOf (inLoop true 15 5 12 1) [low]).atEdge ∧
      (inLoop true 15 5 12 1).bitidx.toNat < nlz (inLoop true 15 5 12 1).fam ∧
      (inLoop true 15 5 12 1).cnt.toNat ≤ (inLoop true 15 5 12 1).T.toNat) ∧
    ((stateOf (inLoop true 11 6 12 1) [low]).atEdge ∧
      nlz (inLoop true 11 6 12 1).fam ≤ (inLoop true 11 6 12 1).bitidx.toNat) ∧
    ((stateOf (inLoop true 12 39 12 1) [low]).atEdge ∧ (inLoop true 12 39 12 1).bitidx.toNat ≤ 39) ∧
    (¬ (stateOf (inLoop false 1 10 12 1) [low]).atEdge ∧ (inLoop false 1 10 12 1).cnt.toNat = 1) ∧
    (¬ (stateOf (inLoop true 2 10 12 1) [high]).atEdge ∧ 1 < (inLoop true 2 10 12 1).cnt.toNat) := by decide
/-- V25d, V25f with two units of budget: an edge at the last unit, and no edge. -/
theorem witness_TimeoutAtTheLastTickWithoutEdge :
    (inLoop false 2 10 12 1).Inv ∧
    (stateOf (inLoop false 2 10 12 1) [high, low]).noResetFor 2 ∧
    ((∀ i, i < 1 → ¬ (stateOf (inLoop false 2 10 12 1) [high, low]).edgeAt i) ∧
      (stateOf (inLoop false 2 10 12 1) [high, low]).edgeAt 1) ∧
    (∀ i, i < 2 → ¬ (stateOf (inLoop false 2 10 12 1) [high, high]).edgeAt i) := by
  refine ⟨inv_of_check (by decide), by decide, ⟨fun i hi => ?_, ?_⟩, fun i hi => ?_⟩
  · interval_cases i
    exact fun h => absurd h.1 (by decide)
  · exact ⟨by decide, by decide⟩
  · interval_cases i
    · exact fun h => absurd h.1 (by decide)
    · exact fun h => absurd h.2 (by decide)
/-- At an edge and at no edge. -/
theorem witness_EdgesAreHighThenLow :
    ((inLoop true 11 6 12 1).Inv ∧ (stateOf (inLoop true 11 6 12 1) [low]).now.rst = false ∧
      (inLoop true 11 6 12 1).st = .bitLoop ∧ (stateOf (inLoop true 11 6 12 1) [low]).atEdge ∧
      ∃ s', step (stateOf (inLoop true 11 6 12 1) [low]) = .next s') ∧
    (¬ (stateOf (inLoop true 11 6 12 1) [high]).atEdge ∧
      ∃ s', step (stateOf (inLoop true 11 6 12 1) [high]) = .next s') :=
  ⟨⟨inv_of_check (by decide), by decide, by decide, by decide, _, rfl⟩, by decide, _, rfl⟩
/-- V37 after its calibration cell: `floor = 1`, `margin = 2`. -/
theorem witness_ClassifierDoesNotWrapAround_inv :
    ({ inLoop true 1 1 1 2 with fam := .type11, T := 10 } : Regs).Inv := inv_of_check (by decide)
theorem witness_ClassifierDoesNotWrapAround :
    (stateOf { inLoop true 1 1 1 2 with fam := .type11, T := 10 } [low]).now.rst = false ∧
    (stateOf { inLoop true 1 1 1 2 with fam := .type11, T := 10 } [low]).atEdge ∧
    nlz .type11 ≤ (1 : BitIndex).toNat ∧ (1 : Ticks).toNat < (2 : Ticks).toNat := by decide
theorem witness_ReceivedBitsStandInArrivalOrder :
    ((inLoop true 11 39 12 1).Inv ∧ (stateOf (inLoop true 11 39 12 1) [low]).now.rst = false ∧
      (inLoop true 11 39 12 1).st = .bitLoop ∧ (stateOf (inLoop true 11 39 12 1) [low]).atEdge) ∧
    checksumDone.bitidx.toNat = 40 :=
  ⟨⟨inv_of_check (by decide), by decide⟩, by decide⟩
/-- V39: one cell of `d = 5` under the budgets 6 and 7. -/
theorem witness_ClassificationIsIndependentOfTheBudget :
    ({ inLoop true 2 1 2 1 with fam := .type11, T := 6 } : Regs).Inv ∧
    ({ inLoop true 3 1 3 1 with fam := .type11, T := 7 } : Regs).Inv ∧
    sameUpToBudget { inLoop true 2 1 2 1 with fam := .type11, T := 6 }
      { inLoop true 3 1 3 1 with fam := .type11, T := 7 } ∧
    (∃ a', step (stateOf { inLoop true 2 1 2 1 with fam := .type11, T := 6 } [low]) = .next a' ∧
      a'.regs.err ≠ .timeout) ∧
    (∃ b', step (stateOf { inLoop true 3 1 3 1 with fam := .type11, T := 7 } [low]) = .next b' ∧
      b'.regs.err ≠ .timeout) ∧
    (stateOf { inLoop true 2 1 2 1 with fam := .type11, T := 6 } [low]).now = low ∧
    (stateOf { inLoop true 3 1 3 1 with fam := .type11, T := 7 } [low]).now = low ∧ low.rst = false :=
  ⟨inv_of_check (by decide), inv_of_check (by decide),
    ⟨rfl, rfl, rfl, rfl, rfl, rfl, rfl, ⟨rfl, rfl, rfl⟩, rfl, by decide, by decide⟩,
    ⟨_, rfl, by decide⟩, ⟨_, rfl, by decide⟩, by decide⟩
/-- The first byte index that does not exist. -/
theorem witness_BitLoopFaultsOnlyOutsideTheFrame :
    exec .bitLoop (stateOf (inLoop true 9 47 12 1) [low]) = .fault .noSuchFrameByte := by rfl
/-- Bytes 0 and 4 are stored at the edges that complete them; a command and a reset clear a frame. -/
theorem witness_FrameByteIsWrittenWhole :
    (low.rst = false ∧ (stateOf (inLoop true 9 7 12 1) [low]).regs.st = .bitLoop ∧
      (stateOf (inLoop true 9 7 12 1) [low]).atEdge ∧ (7 : BitIndex).toNat % 8 = 7) ∧
    ((stateOf (inLoop true 9 39 12 1) [low]).atEdge ∧ (39 : BitIndex).toNat % 8 = 7 ∧
      (39 : BitIndex).toNat / 8 ≤ 4) ∧
    (resting checksumDone.st = true ∧ legalCommand (stateOf checksumDone [request 2 16]).now = true) ∧
    (stateOf checksumDone [resetEdge]).now.rst = true ∧
    (∃ s', step (stateOf (inLoop true 9 7 12 1) [low]) = .next s' ∧
      s'.regs.frame ≠ (inLoop true 9 7 12 1).frame) ∧
    (∃ s', step (stateOf checksumDone [request 2 16]) = .next s' ∧ s'.regs.frame ≠ checksumDone.frame) :=
  ⟨by decide, by decide, by decide, by decide, ⟨_, rfl, by decide⟩, ⟨_, rfl, by decide⟩⟩
theorem witness_ValidateDecodesAndCommits :
    (received .type11 ⟨0x2D, 0x00, 0x17, 0x00, 0x44⟩).st = .validate ∧
    (received .type11 ⟨0x2D, 0x00, 0x17, 0x00, 0x44⟩).fam = .type11 ∧
    (received .type21 ⟨0x02, 0x2B, 0x80, 0x69, 0x16⟩).fam = .type21 ∧
    (received .type22 ⟨0x01, 0x90, 0x00, 0xFA, 0x8B⟩).fam = .type22 := by decide
theorem witness_ReadingRanges :
    (stateOf (received .type22 ⟨0x03, 0xFF, 0xFF, 0xFF, 0x00⟩) [low]).now.rst = false ∧
    (received .type22 ⟨0x03, 0xFF, 0xFF, 0xFF, 0x00⟩).st = .validate := by decide
theorem witness_MaskOnFirstByteChangesNothing :
    (received .type11 ⟨0x7F, 0xFF, 0x7F, 0xFF, 0xFC⟩).Inv ∧
    (received .type22 ⟨0x03, 0xFF, 0xFF, 0xFF, 0x00⟩).Inv :=
  ⟨inv_of_check (by decide), inv_of_check (by decide)⟩
theorem witness_FamilyFunctionsAndTypes21And22Identical :
    (∃ s', step (stateOf { inLoop true 13 3 12 1 with fam := .type21 } [low]) = .next s') ∧
    (∃ s', step (stateOf (inLoop true 13 3 12 1) [low]) = .next s') ∧
    (stateOf (inLoop true 13 3 12 1) [low]).now.rst = false ∧
    resting (inLoop true 13 3 12 1).st = false ∧ (inLoop true 13 3 12 1).fam = .type22 :=
  ⟨⟨_, rfl⟩, ⟨_, rfl⟩, by decide⟩
theorem witness_OutputPorts :
    ¬ (checksumDone.st = .done ∧ timeoutClass checksumDone.err = true) ∧
    (connectDone.st = .done ∧ connectDone.err = .connect ∧ timeoutClass connectDone.err = true) ∧
    ({ connectDone with err := .timeout, bitidx := 20, frame := checksumDone.frame } : Regs).st = .done ∧
    checksumDone.st = .done ∧ checksumDone.err = .checksum := by decide
theorem witness_ResultPortsAbsentAfterTimeoutClassError :
    connectDone.st = .done ∧ connectDone.err = .connect := by decide
/-- Into `DONE` from each of the five states that lead there. -/
theorem witness_EachErrorHasItsState :
    (∃ s', step (stateOf (inWait .awaitSensorLow 1) [high]) = .next s' ∧ s'.regs.st = .done) ∧
    (∃ s', step (stateOf (inWait .awaitAckHigh 1) [low]) = .next s' ∧ s'.regs.st = .done) ∧
    (∃ s', step (stateOf (inWait .awaitAckLow 1) [high]) = .next s' ∧ s'.regs.st = .done) ∧
    (∃ s', step (stateOf (inLoop false 1 10 12 1) [low]) = .next s' ∧ s'.regs.st = .done) ∧
    (∃ s', step (stateOf (received .type11 ⟨0, 0, 0, 0, 0⟩) [low]) = .next s' ∧ s'.regs.st = .done) ∧
    low.rst = false ∧ high.rst = false ∧ (received .type11 ⟨0, 0, 0, 0, 0⟩).st ≠ .done ∧
    (inLoop false 1 10 12 1).st ≠ .done ∧ (inWait .awaitAckLow 1).st ≠ .done :=
  ⟨⟨_, rfl, rfl⟩, ⟨_, rfl, rfl⟩, ⟨_, rfl, rfl⟩, ⟨_, rfl, rfl⟩, ⟨_, rfl, rfl⟩, by decide⟩
theorem witness_ErrIsWrittenOncePerAttempt :
    (∃ s', step (stateOf (inWait .awaitSensorLow 1) [high]) = .next s' ∧
      s'.regs.err ≠ (inWait .awaitSensorLow 1).err) ∧
    (∃ s', step (stateOf checksumDone [request 2 16]) = .next s' ∧ s'.regs.err ≠ checksumDone.err) ∧
    (∃ s', step (stateOf checksumDone [resetEdge]) = .next s' ∧ s'.regs.err ≠ checksumDone.err) ∧
    ((request 2 16).rst = false ∧ resting checksumDone.st = true ∧
      legalCommand (stateOf checksumDone [request 2 16]).now = true) ∧ resetEdge.rst = true :=
  ⟨⟨_, rfl, by decide⟩, ⟨_, rfl, by decide⟩, ⟨_, rfl, by decide⟩, by decide, by decide⟩
theorem witness_LineIsDrivenFromStartToRelease :
    (∃ s', step (stateOf Regs.reset [request 2 16]) = .next s' ∧ s'.regs.pinOe ≠ Regs.reset.pinOe) ∧
    (∃ s', step (stateOf { startColumn .type22 16 with st := .releaseLine } [high]) = .next s' ∧
      s'.regs.pinOe ≠ (startColumn .type22 16).pinOe) ∧
    ((request 2 16).rst = false ∧ resting Regs.reset.st = true ∧
      legalCommand (stateOf Regs.reset [request 2 16]).now = true) ∧ resetEdge.rst = true :=
  ⟨⟨_, rfl, by decide⟩, ⟨_, rfl, by decide⟩, by decide, by decide⟩
theorem witness_WireAndDelayAreReadOnlyWhereTheRulesSay :
    polling (received .type11 ⟨0, 0, 0, 0, 0⟩).st = false ∧ polling (startColumn .type22 16).st = false ∧
    (inLoop true 13 3 12 1).st ≠ .startPulse := by decide
/-- A state that meets R37 in each of the nine states of `st`. -/
theorem witness_TransitionTable :
    Regs.reset.Inv ∧ checksumDone.Inv ∧ connectDone.Inv ∧ (startColumn .type22 16).Inv ∧
    ({ startColumn .type22 16 with st := .releaseLine } : Regs).Inv ∧ (inWait .awaitSensorLow 8).Inv ∧
    (inWait .awaitAckHigh 4).Inv ∧ (inWait .awaitAckLow 1).Inv ∧ (inLoop true 15 0 0 0).Inv ∧
    (received .type11 ⟨0x2D, 0x00, 0x17, 0x00, 0x44⟩).Inv := by
  refine ⟨?_, ?_, ?_, ?_, ?_, ?_, ?_, ?_, ?_, ?_⟩ <;> exact inv_of_check (by decide)
theorem witness_NoStepStopsUnderTheInvariants : (stateOf (inLoop true 15 0 0 0) [low]).Inv :=
  inv_of_check (by decide)
theorem witness_EveryStepKeepsTheInvariants : (stateOf (inLoop true 15 0 0 0) [low]).Inv ∧
    ∃ s', step (stateOf (inLoop true 15 0 0 0) [low]) = .next s' :=
  ⟨inv_of_check (by decide), _, rfl⟩
/-- Two edges in `DONE`: an illegal command, then none. -/
theorem witness_ResultIsStable : checksumDone.st = .done ∧
    ∀ k, k < 2 → ((stateOf checksumDone [request 3 16, high]).env.inputAt k).rst = false ∧
      legalCommand ((stateOf checksumDone [request 3 16, high]).env.inputAt k) = false := by decide
theorem witness_EveryStepKeepsWhatOutcomesSay :
    (stateOf (received .type22 ⟨0x01, 0x90, 0x00, 0xFA, 0x8B⟩) [high]).SafeInv ∧
    ∃ s', step (stateOf (received .type22 ⟨0x01, 0x90, 0x00, 0xFA, 0x8B⟩) [high]) = .next s' :=
  ⟨⟨inv_of_check (by decide), by constructor <;> decide⟩, _, rfl⟩
/-- The smallest budget: `1 + 4 * 1 + 40 * 1 + 1 = 46` edges without reset. -/
theorem witness_EveryAttemptEndsWithinItsBudget :
    ({ startColumn .type11 1 with st := .releaseLine } : Regs).Inv ∧
    (stateOf { startColumn .type11 1 with st := .releaseLine } (List.replicate 46 high)).noResetFor 46 :=
  ⟨inv_of_check (by decide), by decide⟩

end Sys2Proof.Machine.Slice0
end

/-! PROOFS. What `err`, the START column and the output ports are (spec 10_state.md R20 to R23, R31 to
R33, R36; 60_exceptions.md R155). -/

namespace Sys2Proof.Machine

/-! ## The output ports, port by port -/

section OutputFields
variable (r : Regs)

@[simp] theorem Regs.outputs_busy : r.outputs.busy = r.busy := rfl
@[simp] theorem Regs.outputs_done : r.outputs.done = r.isDone := rfl
@[simp] theorem Regs.outputs_err : r.outputs.err = r.err.code := rfl
@[simp] theorem Regs.outputs_frameValid : r.outputs.frameValid = r.frameValid := rfl
@[simp] theorem Regs.outputs_readingValid : r.outputs.readingValid = r.readingValid := rfl
@[simp] theorem Regs.outputs_frameO : r.outputs.frameO = r.resultPort r.frame.word := rfl
@[simp] theorem Regs.outputs_humO : r.outputs.humO = r.resultPort r.hum := rfl
@[simp] theorem Regs.outputs_tnegO : r.outputs.tnegO = r.resultPort r.tneg := rfl
@[simp] theorem Regs.outputs_tmagO : r.outputs.tmagO = r.resultPort r.tmag := rfl
@[simp] theorem Regs.outputs_pinOe : r.outputs.pinOe = r.pinOe := rfl
@[simp] theorem Regs.outputs_pinOut : r.outputs.pinOut = false := rfl
@[simp] theorem Regs.outputs_pinPull : r.outputs.pinPull = !r.pinOe := rfl
@[simp] theorem Regs.outputs_delayReq : r.outputs.delayReq = (r.st == .startPulse) := rfl
@[simp] theorem Regs.outputs_delayMs : r.outputs.delayMs = wakeMs r.fam := rfl

end OutputFields

/-! ## The result flags (R21 to R23) -/

theorem resting_iff (st : St) : resting st = true ↔ st = .idle ∨ st = .done := by
  cases st <;> simp [resting]

theorem Regs.busy_iff (r : Regs) : r.busy = true ↔ r.st ≠ .idle ∧ r.st ≠ .done := by
  rw [Regs.busy, Bool.not_eq_true', ← Bool.not_eq_true, resting_iff, not_or]

theorem Regs.isDone_iff (r : Regs) : r.isDone = true ↔ r.st = .done := by
  simp [Regs.isDone]

theorem Regs.frameValid_iff (r : Regs) :
    r.frameValid = true ↔ r.st = .done ∧ (r.err = .ok ∨ r.err = .checksum) := by
  simp [Regs.frameValid, Regs.isDone_iff]

theorem Regs.readingValid_iff (r : Regs) : r.readingValid = true ↔ r.st = .done ∧ r.err = .ok := by
  simp [Regs.readingValid, Regs.isDone_iff]

/-- Settles O36, from the equivalence of each flag. -/
theorem resultFlags : Obligations.ResultFlags :=
  fun r => ⟨r.busy_iff, r.isDone_iff, r.frameValid_iff, r.readingValid_iff⟩

/-! ## The result ports (R31, R155) -/

theorem timeoutClass_iff (k : ErrorKind) :
    timeoutClass k = true ↔ k = .timeout ∨ k = .connect ∨ k = .ackLow ∨ k = .ackHigh := by
  cases k <;> simp [timeoutClass]

theorem Regs.resultUnspecified_iff (r : Regs) :
    r.resultUnspecified = true ↔ r.st = .done ∧ timeoutClass r.err = true := by
  simp [Regs.resultUnspecified, Regs.isDone_iff]

theorem Regs.resultPort_eq_none {α : Type} {r : Regs} (v : α) (hst : r.st = .done)
    (herr : timeoutClass r.err = true) : r.resultPort v = none :=
  if_pos (r.resultUnspecified_iff.mpr ⟨hst, herr⟩)

theorem Regs.resultPort_eq_some {α : Type} {r : Regs} (v : α)
    (h : ¬ (r.st = .done ∧ timeoutClass r.err = true)) : r.resultPort v = some v :=
  if_neg (r.resultUnspecified_iff.not.mpr h)

theorem Regs.not_valid_of_timeoutClass {r : Regs} (h : timeoutClass r.err = true) :
    r.frameValid = false ∧ r.readingValid = false := by
  rcases (timeoutClass_iff _).mp h with e | e | e | e <;> simp [Regs.frameValid, Regs.readingValid, e]

/-- A byte appended below moves every other byte up by eight bits. -/
theorem extractLsb'_append_byte {w : Nat} (x : BitVec w) (y : Byte) (k : Nat) :
    (x ++ y).extractLsb' (k + 8) 8 = x.extractLsb' k 8 :=
  BitVec.extractLsb'_append_eq_of_le (Nat.le_add_left 8 k)

/-- The five bytes of `frame_o`, byte 0 uppermost (R31, R45). -/
theorem Frame.word_bytes (f : Frame) :
    f.word.extractLsb' 32 8 = f.b0 ∧ f.word.extractLsb' 24 8 = f.b1 ∧
    f.word.extractLsb' 16 8 = f.b2 ∧ f.word.extractLsb' 8 8 = f.b3 ∧
    f.word.extractLsb' 0 8 = f.b4 := by
  have drop4 := extractLsb'_append_byte (f.b0 ++ f.b1 ++ f.b2 ++ f.b3) f.b4
  have drop3 := extractLsb'_append_byte (f.b0 ++ f.b1 ++ f.b2) f.b3
  have drop2 := extractLsb'_append_byte (f.b0 ++ f.b1) f.b2
  have low {w : Nat} (x : BitVec w) (y : Byte) : (x ++ y).extractLsb' 0 8 = y :=
    BitVec.extractLsb'_append_eq_right
  exact ⟨(drop4 24).trans <| (drop3 16).trans <| (drop2 8).trans BitVec.extractLsb'_append_eq_left,
    (drop4 16).trans <| (drop3 8).trans <| (drop2 0).trans <| low f.b0 f.b1,
    (drop4 8).trans <| (drop3 0).trans <| low (f.b0 ++ f.b1) f.b2,
    (drop4 0).trans <| low (f.b0 ++ f.b1 ++ f.b2) f.b3,
    low (f.b0 ++ f.b1 ++ f.b2 ++ f.b3) f.b4⟩

/-- `WAKE_MS` in milliseconds (R62). -/
theorem wakeMs_toNat (f : Family) : (wakeMs f).toNat = if f = .type11 then 18 else 1 := by
  cases f <;> rfl

/-- Settles O37: a result port is its register unless the outcome is timeout-class, and absent then. -/
theorem outputPorts : Obligations.OutputPorts := by
  refine ⟨fun r h => ?_, fun r _ herr => ?_, fun r q hr hq er eq => ?_, fun r hst herr => ?_,
    fun r => ?_, fun r => ?_⟩
  · obtain ⟨h0, h1, h2, h3, h4⟩ := r.frame.word_bytes
    exact ⟨r.frame.word, Regs.resultPort_eq_some _ h, h0, h1, h2, h3, h4,
      Regs.resultPort_eq_some _ h, Regs.resultPort_eq_some _ h, Regs.resultPort_eq_some _ h⟩
  · exact Regs.not_valid_of_timeoutClass ((timeoutClass_iff _).mpr herr)
  · simp [Regs.resultPort_eq_none _ hr er, Regs.resultPort_eq_none _ hq eq]
  · simp [Regs.frameValid, Regs.readingValid, Regs.isDone, hst, herr]
  · rw [Regs.outputs_err]
    cases r.err <;> rfl
  · simp [wakeMs_toNat]

/-! ## Accepting a command -/

/-- The model's accepted START writes the START column of R36. -/
theorem Regs.started_eq_startColumn (f : Family) (t : Ticks) : Regs.started f t = startColumn f t := rfl

theorem Family.code_injective {f g : Family} (h : f.code = g.code) : f = g :=
  Option.some_injective _ (by rw [← Family.ofCode_code f, ← Family.ofCode_code g, h])

/-- A request is legal when its family code stands for a family and its timeout is not 0 (R80). -/
theorem legalCommand_iff (x : Inputs) : legalCommand x = true ↔
    x.start = true ∧ (∃ f, Family.ofCode x.family = some f) ∧ x.timeout ≠ 0 := by
  rw [← Option.ne_none_iff_exists', Ne, Family.ofCode_eq_none]
  simp [legalCommand, and_assoc]

/-- At rest, a legal command writes the START column into every register, and anything else on the
ports changes none (R80, R83, R84, R156). -/
theorem State.acceptPorts_legalCommand (s : State) (h : resting s.regs.st = true) :
    (legalCommand s.now = true ∧ ∃ f : Family, s.now.family = f.code ∧
      s.acceptPorts = s.setRegs (startColumn f s.now.timeout)) ∨
    (legalCommand s.now = false ∧ s.acceptPorts.regs = s.regs) := by
  rw [← Bool.not_eq_true, legalCommand_iff]
  rcases s.acceptPorts_cases h with ⟨hs, e⟩ | ⟨-, hbad, e⟩ | ⟨f, hs, hf, ht, e⟩
  · exact .inr ⟨by simp [hs], by rw [e]⟩
  · exact .inr ⟨by rcases hbad with hf | ht <;> simp [*], by rw [e, State.mark_regs]⟩
  · exact .inl ⟨⟨hs, ⟨f, hf⟩, ht⟩, f, Family.code_of_ofCode hf, e⟩

/-- The step that accepts a legal command. -/
theorem step_legalCommand {s : State} (hrst : s.now.rst = false) (hrest : resting s.regs.st = true)
    (hcmd : legalCommand s.now = true) : ∃ f : Family, s.now.family = f.code ∧
      step s = .next (s.setRegs (startColumn f s.now.timeout)).tick := by
  rcases s.acceptPorts_legalCommand hrest with ⟨-, f, hf, e⟩ | ⟨hno, -⟩
  · exact ⟨f, hf, by rw [step_resting s hrst hrest, e]⟩
  · simp [hno] at hcmd

theorem Regs.reset_frame_get (i : Nat) (h : i ≤ 4) : Regs.reset.frame.get i = some 0 := by
  interval_cases i <;> rfl

/-- Settles O10: the reset column is that of `Regs.reset`, and the step that accepts the command writes
the START column of the one family whose code is on the ports. -/
theorem resetAndStartColumns : Obligations.ResetAndStartColumns := by
  refine ⟨⟨rfl, rfl, rfl, rfl, rfl, rfl, rfl, Regs.reset_frame_get, rfl, rfl, rfl, rfl, rfl, rfl, rfl⟩,
    ⟨rfl, rfl, rfl, rfl, rfl, rfl, rfl⟩, ?_⟩
  intro s f hrst hrest hstart hfam htime
  have hcmd : legalCommand s.now = true :=
    (legalCommand_iff _).mpr ⟨hstart, ⟨f, by rw [hfam, Family.ofCode_code]⟩, htime⟩
  obtain ⟨g, hg, hstep⟩ := step_legalCommand hrst hrest hcmd
  obtain rfl : f = g := Family.code_injective (hfam.symm.trans hg)
  exact ⟨_, hstep, rfl⟩

/-! ## Where `err` is written (R20) -/

theorem Regs.miss_err (r : Regs) (k : ErrorKind) : (r.miss k).err = r.err ∨ (r.miss k).st = .done := by
  rcases r.miss_cases k with ⟨-, e⟩ | ⟨-, e⟩
  · exact .inr (by rw [e])
  · exact .inl (by rw [e])

theorem Regs.await_err (r : Regs) (level sample : Level) (next : St) (k : ErrorKind) :
    (r.await level sample next k).err = r.err ∨ (r.await level sample next k).st = .done := by
  rcases r.await_cases level sample next k with ⟨-, e⟩ | ⟨-, e⟩
  · exact .inl (by rw [e])
  · exact e ▸ r.miss_err k

theorem Regs.awaitFirstCell_err (r : Regs) (sample : Level) :
    (r.awaitFirstCell sample).err = r.err ∨ (r.awaitFirstCell sample).st = .done := by
  rcases r.awaitFirstCell_cases sample with ⟨-, e⟩ | ⟨-, e⟩
  · exact .inl (by rw [e])
  · exact e ▸ r.miss_err .ackHigh

theorem Regs.endCell_err (r : Regs) : r.endCell.err = r.err := by
  obtain ⟨-, -, -, herr, -⟩ := r.endCell_frame
  exact herr

theorem Regs.bitTick_err (r : Regs) (sample : Level) :
    (r.bitTick sample).err = r.err ∨ (r.bitTick sample).st = .done := by
  rcases r.bitTick_cases sample with ⟨-, -, e⟩ | ⟨-, -, e⟩ | ⟨-, -, e⟩
  · exact .inl (by rw [e, ← r.endCell_err])
  · exact .inr (by rw [e])
  · exact .inl (by rw [e])

theorem Regs.holdPulse_err (r : Regs) (delayDone : Level) : (r.holdPulse delayDone).err = r.err := by
  cases delayDone <;> rfl

theorem Regs.release_err (r : Regs) : r.release.err = r.err := rfl

/-- A step of a busy block keeps `err` or enters `DONE`. -/
theorem step_busy_err {s s' : State} (hrst : s.now.rst = false) (hbusy : resting s.regs.st = false)
    (h : step s = .next s') : s'.regs.err = s.regs.err ∨ s'.regs.st = .done := by
  rcases step_cases h with ⟨hr, -⟩ | ⟨-, hrest, -⟩ | ⟨-, -, rfl⟩ | ⟨-, -, rfl⟩ | ⟨-, -, rfl⟩ |
    ⟨-, -, rfl⟩ | ⟨-, -, rfl⟩ | ⟨-, -, -, rfl⟩ | ⟨-, -, rfl⟩
  · simp [hrst] at hr
  · simp [hbusy] at hrest
  · exact .inl (Regs.holdPulse_err _ _)
  · exact .inl (Regs.release_err _)
  · exact Regs.await_err _ _ _ _ _
  · exact Regs.await_err _ _ _ _ _
  · exact Regs.awaitFirstCell_err _ _
  · exact Regs.bitTick_err _ _
  · exact .inr (Regs.raise_st _ _)

/-- A step at rest changes `err` only by accepting a legal command. -/
theorem step_resting_err {s s' : State} (hrst : s.now.rst = false) (hrest : resting s.regs.st = true)
    (h : step s = .next s') (herr : s'.regs.err ≠ s.regs.err) : legalCommand s.now = true := by
  rw [step_resting s hrst hrest] at h
  obtain rfl : s.acceptPorts.tick = s' := Host.Outcome.next.inj h
  rcases s.acceptPorts_legalCommand hrest with ⟨hcmd, -⟩ | ⟨-, hregs⟩
  · exact hcmd
  · exact absurd (by rw [State.tick_regs, hregs]) herr

/-- Settles O39: of the steps that are no reset, a busy one writes `err` only with `DONE`, and one at
rest only with the START column, whose `err` is `Ok`. -/
theorem errIsWrittenOncePerAttempt : Obligations.ErrIsWrittenOncePerAttempt := by
  refine ⟨fun s s' h herr => ?_, fun s hrst hrest hcmd => ?_, fun s hrst => ?_⟩
  · cases hrst : s.now.rst with
    | true => exact .inr (.inr rfl)
    | false =>
      cases hrest : resting s.regs.st with
      | false => exact .inl ⟨rfl, rfl, (step_busy_err hrst hrest h).resolve_left herr⟩
      | true => exact .inr (.inl ⟨rfl, rfl, step_resting_err hrst hrest h herr⟩)
  · obtain ⟨f, -, hstep⟩ := step_legalCommand hrst hrest hcmd
    exact ⟨_, hstep, rfl⟩
  · exact ⟨_, step_reset s hrst, rfl⟩

end Sys2Proof.Machine

/-! PROOFS. What the registers keep from one clock edge to the next (spec 20_memory.md R42, R44, R52,
R53): `fam` and `T`, the frame store, the line and the result. -/

namespace Sys2Proof.Machine

/-! ## What the operations of a busy block leave alone -/

/-- `r'` is as `r` in the registers that hold what the attempt was asked, what it received and whether
it drives the line. -/
structure Regs.SameAttempt (r r' : Regs) : Prop where
  fam   : r'.fam = r.fam
  T     : r'.T = r.T
  frame : r'.frame = r.frame
  pinOe : r'.pinOe = r.pinOe

theorem Regs.SameAttempt.refl (r : Regs) : r.SameAttempt r := ⟨rfl, rfl, rfl, rfl⟩

theorem Regs.sameAttempt_holdPulse (r : Regs) (delayDone : Level) :
    r.SameAttempt (r.holdPulse delayDone) := by
  cases delayDone <;> exact ⟨rfl, rfl, rfl, rfl⟩

theorem Regs.sameAttempt_miss (r : Regs) (k : ErrorKind) : r.SameAttempt (r.miss k) := by
  rcases r.miss_cases k with ⟨-, e⟩ | ⟨-, e⟩ <;> rw [e] <;> exact ⟨rfl, rfl, rfl, rfl⟩

theorem Regs.sameAttempt_await (r : Regs) (level sample : Level) (next : St) (k : ErrorKind) :
    r.SameAttempt (r.await level sample next k) := by
  rcases r.await_cases level sample next k with ⟨-, e⟩ | ⟨-, e⟩ <;> rw [e]
  · exact ⟨rfl, rfl, rfl, rfl⟩
  · exact r.sameAttempt_miss k

theorem Regs.sameAttempt_awaitFirstCell (r : Regs) (sample : Level) :
    r.SameAttempt (r.awaitFirstCell sample) := by
  rcases r.awaitFirstCell_cases sample with ⟨-, e⟩ | ⟨-, e⟩ <;> rw [e]
  · exact ⟨rfl, rfl, rfl, rfl⟩
  · exact r.sameAttempt_miss .ackHigh

theorem Regs.sameAttempt_decodeFields_raise (r : Regs) (k : ErrorKind) :
    r.SameAttempt (r.decodeFields.raise k) := by
  have e := r.decodeFields_frame
  exact ⟨(congrArg Regs.fam e :), (congrArg Regs.T e :), (congrArg Regs.frame e :),
    (congrArg Regs.pinOe e :)⟩

/-- A step at rest without reset changes a register only by accepting a legal command. -/
theorem step_resting_regs {s s' : State} (hrst : s.now.rst = false) (hrest : resting s.regs.st = true)
    (h : step s = .next s') : legalCommand s.now = true ∨ s'.regs = s.regs := by
  rw [step_resting s hrst hrest] at h
  obtain rfl : s.acceptPorts.tick = s' := Host.Outcome.next.inj h
  exact (s.acceptPorts_legalCommand hrest).imp And.left And.right

/-- Every step keeps the attempt's registers, but for a reset, an accepted command, `RELEASE_LINE` and
the edges of the bit loop. -/
theorem step_sameAttempt_or {s s' : State} (h : step s = .next s') :
    s.now.rst = true ∨
    (s.now.rst = false ∧ resting s.regs.st = true ∧ legalCommand s.now = true) ∨
    s.regs.SameAttempt s'.regs ∨
    (s.regs.st = .releaseLine ∧ s'.regs = s.regs.release) ∨
    (s.now.rst = false ∧ s.regs.st = .bitLoop ∧ s.atEdge ∧
      s.regs.writesOutsideFrame s.sample = false ∧
      s'.regs = { s.regs.endCell with prev := false }) := by
  rcases step_cases h with ⟨hrst, -⟩ | ⟨hrst, hrest, -⟩ | ⟨-, -, rfl⟩ | ⟨-, hst, rfl⟩ |
    ⟨-, -, rfl⟩ | ⟨-, -, rfl⟩ | ⟨-, -, rfl⟩ | ⟨hrst, hst, hfits, rfl⟩ | ⟨-, -, rfl⟩
  · exact .inl hrst
  · rcases step_resting_regs hrst hrest h with hcmd | e
    · exact .inr (.inl ⟨hrst, hrest, hcmd⟩)
    · exact .inr (.inr (.inl (e ▸ .refl _)))
  · exact .inr (.inr (.inl (Regs.sameAttempt_holdPulse _ _)))
  · exact .inr (.inr (.inr (.inl ⟨hst, rfl⟩)))
  · exact .inr (.inr (.inl (Regs.sameAttempt_await _ _ _ _ _)))
  · exact .inr (.inr (.inl (Regs.sameAttempt_await _ _ _ _ _)))
  · exact .inr (.inr (.inl (Regs.sameAttempt_awaitFirstCell _ _)))
  · rw [State.tick_regs, State.setRegs_regs]
    rcases s.regs.bitTick_cases s.sample with ⟨hprev, hlow, e⟩ | ⟨-, -, e⟩ | ⟨-, -, e⟩
    · exact .inr (.inr (.inr (.inr ⟨hrst, hst, ⟨hprev, hlow⟩, hfits, e⟩)))
    · exact .inr (.inr (.inl (e ▸ ⟨rfl, rfl, rfl, rfl⟩)))
    · exact .inr (.inr (.inl (e ▸ ⟨rfl, rfl, rfl, rfl⟩)))
  · exact .inr (.inr (.inl (Regs.sameAttempt_decodeFields_raise _ _)))

/-! ## `fam` and `T` (R52) -/

section HostPorts
variable (s : State) (start : Level) (family : BitVec 2) (timeout : Ticks)

@[simp] theorem State.withHostPorts_regs : (s.withHostPorts start family timeout).regs = s.regs := rfl
@[simp] theorem State.withHostPorts_rst :
    (s.withHostPorts start family timeout).now.rst = s.now.rst := rfl

end HostPorts

/-- Settles O16: the START column holds the copies, and no step of a busy block without reset writes
`fam` or `T`. -/
theorem familyAndTimeoutAreLatched : Obligations.FamilyAndTimeoutAreLatched := by
  refine ⟨fun s f hrst hrest hstart hfam htime => ?_,
    fun s s' start family timeout hrst hbusy h => ?_⟩
  · obtain ⟨-, -, hcolumn⟩ := resetAndStartColumns
    obtain ⟨s', hstep, e⟩ := hcolumn s f hrst hrest hstart hfam htime
    exact ⟨s', hstep, by rw [e]; rfl, by rw [e]; rfl⟩
  · rcases step_sameAttempt_or (s := s.withHostPorts start family timeout) h with
      hreset | ⟨-, hrest, -⟩ | hsame | ⟨-, e⟩ | ⟨-, -, -, -, e⟩
    · exact absurd hreset (by simp [hrst])
    · exact absurd hrest (by simp [hbusy])
    · exact ⟨hsame.fam, hsame.T⟩
    · rw [e]
      exact ⟨rfl, rfl⟩
    · obtain ⟨hfam, hT, -⟩ := s.regs.endCell_frame
      rw [e]
      exact ⟨hfam, hT⟩

/-! ## The frame store (R44) -/

/-- The calibration of an edge tick writes none of the registers that assembly reads (R113, R117). -/
theorem Regs.measured_frame (r : Regs) :
    r.measured.bitidx = r.bitidx ∧ r.measured.sh = r.sh ∧ r.measured.frame = r.frame := by
  unfold Regs.measured
  split <;> exact ⟨rfl, rfl, rfl⟩

/-- An edge tick writes the frame only where it completes a byte, and then that whole byte
(R44, R117). -/
theorem Regs.endCell_frame_cases (r : Regs) :
    (r.bitInByte = 7 ∧ r.endCell.frame = r.frame.set r.byteIndex (shiftIn r.sh r.receivedBit)) ∨
    (r.bitInByte ≠ 7 ∧ r.endCell.frame = r.frame) := by
  obtain ⟨hbitidx, hsh, hframe⟩ := r.measured_frame
  have hcases := r.measured.assemble_cases r.receivedBit
  simp only [Regs.bitInByte, Regs.byteIndex, hbitidx, hsh, hframe] at hcases
  rcases hcases with ⟨h, e⟩ | ⟨h, e⟩
  · exact .inl ⟨h, (congrArg Regs.frame e :)⟩
  · exact .inr ⟨h, (congrArg Regs.frame e :)⟩

/-- A received bit is 1 when it is no calibration bit and its cell is a long one (R114, R116). -/
theorem Regs.receivedBit_iff (r : Regs) : r.receivedBit = true ↔
    nlz r.fam ≤ r.bitidx.toNat ∧ r.cnt.toNat + r.margin.toNat ≤ r.floor.toNat := by
  simp [Regs.receivedBit, Regs.calibrating, Regs.classify]

/-- The step of an edge of the bit loop, where the byte it may complete exists. -/
theorem step_bitLoop_edge {s : State} (hrst : s.now.rst = false) (hst : s.regs.st = .bitLoop)
    (hedge : s.atEdge) (hbyte : s.regs.byteIndex ≤ 4) :
    step s = .next (s.setRegs { s.regs.endCell with prev := false }).tick := by
  obtain ⟨hprev, hlow⟩ := hedge
  have hsample : s.sample = false := hlow
  have hfits : s.regs.writesOutsideFrame s.sample = false := by
    rw [← Bool.not_eq_true, Regs.writesOutsideFrame_iff]
    omega
  have htick : s.regs.bitTick s.sample = { s.regs.endCell with prev := false } := by
    simp [Regs.bitTick, fallingEdge, hprev, hsample]
  rw [step_busy s hrst (by rw [hst]; rfl), hst]
  simp [operationOf, exec, execBitLoop, hfits, htick]

/-- Settles O31: a completed byte is the one write of the frame by a busy step, and the reset column
and the START column hold an empty frame. -/
theorem frameByteIsWrittenWhole : Obligations.FrameByteIsWrittenWhole := by
  refine ⟨fun s hrst hst hedge hbit hbyte => ?_, fun s hclear => ?_, fun s s' h hframe => ?_⟩
  · have hstored := (s.regs.endCell_frame_cases.resolve_right (fun hno => hno.1 hbit)).2
    refine ⟨_, shiftIn s.regs.sh s.regs.receivedBit, s.regs.receivedBit,
      step_bitLoop_edge hrst hst hedge hbyte, ?_, shiftIn_toNat _ _, s.regs.receivedBit_iff,
      fun i hi => ?_⟩
    · exact hstored ▸ Frame.get_set_same _ _ hbyte
    · exact hstored ▸ Frame.get_set_other _ _ hi
  · cases hrst : s.now.rst with
    | true => exact ⟨_, step_reset s hrst, Regs.reset_frame_get⟩
    | false =>
      obtain ⟨hrest, hcmd⟩ := hclear.resolve_left (by simp [hrst])
      obtain ⟨f, -, hstep⟩ := step_legalCommand hrst hrest hcmd
      exact ⟨_, hstep, Regs.reset_frame_get⟩
  · rcases step_sameAttempt_or h with
      hreset | ⟨-, hcmd⟩ | hsame | ⟨-, e⟩ | ⟨hrst, hst, hedge, hfits, e⟩
    · exact .inr (.inl hreset)
    · exact .inr (.inr hcmd)
    · exact absurd hsame.frame hframe
    · exact absurd (congrArg Regs.frame e) hframe
    · rw [e] at hframe
      have hbit := (s.regs.endCell_frame_cases.resolve_right (fun hno => hframe hno.2)).1
      rw [← Bool.not_eq_true, Regs.writesOutsideFrame_iff, fallingEdge_iff] at hfits
      exact .inl ⟨hrst, hst, hedge, hbit, Nat.not_lt.mp fun hout => hfits ⟨hedge, hbit, hout⟩⟩

/-! ## The line (R42) -/

/-- The step of `RELEASE_LINE` (R91). -/
theorem step_releaseLine {s : State} (hrst : s.now.rst = false) (hst : s.regs.st = .releaseLine) :
    step s = .next (s.setRegs s.regs.release).tick := by
  rw [step_busy s hrst (by rw [hst]; rfl), hst]
  rfl

/-- Settles O40: the START column drives the line, `RELEASE_LINE` and the reset column release it, and
every other step keeps it. -/
theorem lineIsDrivenFromStartToRelease : Obligations.LineIsDrivenFromStartToRelease := by
  refine ⟨fun s hrst hrest hcmd => ?_, fun s hrelease => ?_, fun s s' h hline => ?_, fun r => ?_⟩
  · obtain ⟨f, -, hstep⟩ := step_legalCommand hrst hrest hcmd
    exact ⟨_, hstep, rfl⟩
  · cases hrst : s.now.rst with
    | true => exact ⟨_, step_reset s hrst, rfl⟩
    | false => exact ⟨_, step_releaseLine hrst (hrelease.resolve_left (by simp [hrst])), rfl⟩
  · rcases step_sameAttempt_or h with hreset | hcmd | hsame | ⟨hst, -⟩ | ⟨-, -, -, -, e⟩
    · exact .inr (.inr hreset)
    · exact .inl hcmd
    · exact absurd hsame.pinOe hline
    · exact .inr (.inl hst)
    · obtain ⟨-, -, -, -, -, -, -, hpin⟩ := s.regs.endCell_frame
      exact absurd ((congrArg Regs.pinOe e).trans hpin) hline
  · simp

/-! ## The result (R53) -/

/-- What a resting state does at a clock edge touches no input level. -/
theorem State.acceptPorts_inputAt (s : State) (h : resting s.regs.st = true) (k : Nat) :
    s.acceptPorts.env.inputAt k = s.env.inputAt k := by
  rcases s.acceptPorts_cases h with ⟨-, e⟩ | ⟨-, -, e⟩ | ⟨f, -, -, -, e⟩ <;> rw [e]
  · rw [State.mark_inputAt]
  · rw [State.setRegs_env]

/-- A step at rest without reset and without a legal command changes no register and consumes one edge's
levels. -/
theorem step_resting_quiet {s : State} (hrst : s.now.rst = false) (hrest : resting s.regs.st = true)
    (hno : legalCommand s.now = false) : ∃ s' : State, step s = .next s' ∧ s'.regs = s.regs ∧
      ∀ k, s'.env.inputAt k = s.env.inputAt (k + 1) := by
  have hstep := step_resting s hrst hrest
  refine ⟨_, hstep, (step_resting_regs hrst hrest hstep).resolve_left (by simp [hno]), fun k => ?_⟩
  rw [State.tick_inputAt, s.acceptPorts_inputAt hrest]

/-- Settles O43, by induction on the number of edges: a quiet edge in `DONE` leaves the block in `DONE`
with the same registers and the remaining edges before it. -/
theorem resultIsStable : Obligations.ResultIsStable := by
  intro n
  induction n with
  | zero => exact fun s _ _ => ⟨s, rfl, rfl⟩
  | succ n ih =>
    intro s hdone hquiet
    obtain ⟨hrst, hno⟩ := hquiet 0 n.succ_pos
    obtain ⟨t, hstep, hregs, hinputs⟩ := step_resting_quiet hrst (by rw [hdone]; rfl) hno
    obtain ⟨s', hrun, hregs'⟩ := ih t (hregs ▸ hdone) fun k hk =>
      hinputs k ▸ hquiet (k + 1) (Nat.succ_lt_succ hk)
    exact ⟨s', (run_succ n hstep).trans hrun, hregs'.trans hregs⟩

end Sys2Proof.Machine

/-! PROOFS. The family functions, and Type21 and Type22 identical in every step (spec 30_encoding.md
R62). -/

namespace Sys2Proof.Machine

/-- The same registers but for the family of the attempt. -/
def Regs.withFamily (r : Regs) (f : Family) : Regs := { r with fam := f }

/-- The same state but for the family of the attempt. -/
def State.withFamily (s : State) (f : Family) : State := s.setRegs (s.regs.withFamily f)

/-! ## The operations that do not read the family -/

section AnyFamily
variable (r : Regs) (f : Family)

theorem Regs.ite_withFamily (p : Prop) [Decidable p] (a b : Regs) :
    (if p then a else b).withFamily f = if p then a.withFamily f else b.withFamily f :=
  apply_ite (Regs.withFamily · f) p a b

theorem Regs.holdPulse_withFamily (delayDone : Level) :
    (r.withFamily f).holdPulse delayDone = (r.holdPulse delayDone).withFamily f := by
  cases delayDone <;> rfl

theorem Regs.release_withFamily : (r.withFamily f).release = r.release.withFamily f := rfl

theorem Regs.raise_withFamily (k : ErrorKind) :
    (r.raise k).withFamily f = (r.withFamily f).raise k := rfl

theorem Regs.miss_withFamily (k : ErrorKind) :
    (r.withFamily f).miss k = (r.miss k).withFamily f := by
  unfold Regs.miss
  rw [Regs.ite_withFamily]
  rfl

theorem Regs.await_withFamily (level sample : Level) (next : St) (k : ErrorKind) :
    (r.withFamily f).await level sample next k = (r.await level sample next k).withFamily f := by
  unfold Regs.await
  rw [Regs.miss_withFamily, Regs.ite_withFamily]
  rfl

theorem Regs.awaitFirstCell_withFamily (sample : Level) :
    (r.withFamily f).awaitFirstCell sample = (r.awaitFirstCell sample).withFamily f := by
  unfold Regs.awaitFirstCell
  rw [Regs.miss_withFamily, Regs.ite_withFamily]
  rfl

theorem Regs.assemble_withFamily (b : Level) :
    (r.withFamily f).assemble b = (r.assemble b).withFamily f := by
  simp only [Regs.assemble, Regs.ite_withFamily]
  rfl

end AnyFamily

/-! ## The operations that read the family through R62's functions -/

theorem nlz_of_ne_type11 {f : Family} (h : f ≠ .type11) : nlz f = 6 := by
  cases f
  · exact absurd rfl h
  · rfl
  · rfl

theorem Regs.decodeFields_of_ne_type11 {r : Regs} (h : r.fam ≠ .type11) :
    r.decodeFields = r.decode2x := by
  unfold Regs.decodeFields
  split
  · exact absurd ‹_› h
  · rfl
  · rfl

section Type2x
variable {r : Regs} {f : Family} (hr : r.fam ≠ .type11) (hf : f ≠ .type11)
include hr hf

theorem Regs.decodeFields_withFamily :
    (r.withFamily f).decodeFields = r.decodeFields.withFamily f := by
  rw [Regs.decodeFields_of_ne_type11 hr, Regs.decodeFields_of_ne_type11 (r := r.withFamily f) hf]
  rfl

theorem Regs.calibrating_withFamily : (r.withFamily f).calibrating = r.calibrating := by
  simp [Regs.calibrating, Regs.withFamily, nlz_of_ne_type11 hr, nlz_of_ne_type11 hf]

theorem Regs.receivedBit_withFamily : (r.withFamily f).receivedBit = r.receivedBit := by
  unfold Regs.receivedBit
  rw [Regs.calibrating_withFamily hr hf]
  rfl

theorem Regs.measured_withFamily : (r.withFamily f).measured = r.measured.withFamily f := by
  unfold Regs.measured
  rw [Regs.calibrating_withFamily hr hf, Regs.ite_withFamily]
  rfl

theorem Regs.endCell_withFamily : (r.withFamily f).endCell = r.endCell.withFamily f := by
  unfold Regs.endCell
  rw [Regs.measured_withFamily hr hf, Regs.receivedBit_withFamily hr hf, Regs.assemble_withFamily]
  rfl

theorem Regs.bitTick_withFamily (sample : Level) :
    (r.withFamily f).bitTick sample = (r.bitTick sample).withFamily f := by
  unfold Regs.bitTick
  rw [Regs.endCell_withFamily hr hf, Regs.miss_withFamily, ← Regs.ite_withFamily]
  rfl

end Type2x

/-! ## The step -/

/-- The step of a busy block whose operation answers a next state. -/
theorem step_of_exec_next {s t : State} (hrst : s.now.rst = false)
    (hbusy : resting s.regs.st = false) (h : exec (operationOf s.regs.st) s = .next t) :
    step s = .next t.tick := by
  rw [step_busy s hrst hbusy, h]

/-- Between the families other than Type11, changing the family of a busy block before a step or after
it leads to the same state (R62). -/
theorem step_withFamily {s s' : State} {f : Family} (hrst : s.now.rst = false)
    (hbusy : resting s.regs.st = false) (hs : s.regs.fam ≠ .type11) (hf : f ≠ .type11)
    (h : step s = .next s') : step (s.withFamily f) = .next (s'.withFamily f) := by
  have hstep : ∀ {op : St} {r : Regs}, s.regs.st = op →
      exec (operationOf op) (s.withFamily f) = .next (s.setRegs (r.withFamily f)) →
      step (s.withFamily f) = .next ((s.setRegs r).tick.withFamily f) := by
    rintro _ r rfl hexec
    exact step_of_exec_next (s := s.withFamily f) hrst hbusy hexec
  rcases step_cases h with ⟨hr, -⟩ | ⟨-, hrest, -⟩ | ⟨-, hst, rfl⟩ | ⟨-, hst, rfl⟩ |
    ⟨-, hst, rfl⟩ | ⟨-, hst, rfl⟩ | ⟨-, hst, rfl⟩ | ⟨-, hst, hfits, rfl⟩ | ⟨-, hst, rfl⟩
  · simp [hrst] at hr
  · simp [hbusy] at hrest
  · exact hstep hst (by rw [← Regs.holdPulse_withFamily]; rfl)
  · exact hstep hst (by rw [← Regs.release_withFamily]; rfl)
  · exact hstep hst (by rw [← Regs.await_withFamily]; rfl)
  · exact hstep hst (by rw [← Regs.await_withFamily]; rfl)
  · exact hstep hst (by rw [← Regs.awaitFirstCell_withFamily]; rfl)
  · exact hstep hst (by
      rw [← Regs.bitTick_withFamily hs hf]
      exact if_neg (ne_true_of_eq_false hfits))
  · exact hstep hst (by rw [Regs.raise_withFamily, ← Regs.decodeFields_withFamily hs hf]; rfl)

/-- Settles O35: Type21 and Type22 are both other than Type11, so a step of a busy block commutes with
changing one into the other. -/
theorem familyFunctionsAndTypes21And22Identical :
    Obligations.FamilyFunctionsAndTypes21And22Identical := by
  refine ⟨⟨rfl, rfl, rfl, rfl, rfl, rfl⟩, fun s s' hrst hbusy hfam h => ?_,
    fun s s' hrst hbusy hfam h => ?_⟩
  · exact step_withFamily hrst hbusy (by simp [hfam]) (f := .type22) (by decide) h
  · exact step_withFamily hrst hbusy (by simp [hfam]) (f := .type21) (by decide) h

end Sys2Proof.Machine

/-! PROOFS. Commands (spec 40_command.md R80 to R84): what a busy block reads at a clock edge, and what a
command does to a block at rest. -/

namespace Sys2Proof.Machine

/-! ## The ports a busy block reads (R82) -/

/-- The operation of a busy state reads the registers, `pin_in` where it polls and `delay_done` where it
waits for the delay, and no port of the host. -/
theorem exec_busy_congr {s t : State} (hregs : t.regs = s.regs) (hbusy : resting s.regs.st = false)
    (hsample : polling s.regs.st = true → t.sample = s.sample)
    (hdelay : s.regs.st = .startPulse → t.now.delayDone = s.now.delayDone) :
    (∃ r : Regs, exec (operationOf s.regs.st) s = .next (s.setRegs r) ∧
      exec (operationOf s.regs.st) t = .next (t.setRegs r)) ∨
    (∃ e : Fault, exec (operationOf s.regs.st) s = .fault e ∧
      exec (operationOf s.regs.st) t = .fault e) := by
  cases hst : s.regs.st with
  | idle => simp [hst, resting] at hbusy
  | done => simp [hst, resting] at hbusy
  | startPulse => exact .inl ⟨_, rfl, by simp [operationOf, exec, execStartPulse, hregs, hdelay hst]⟩
  | releaseLine => exact .inl ⟨_, rfl, by simp [operationOf, exec, execReleaseLine, hregs]⟩
  | validate => exact .inl ⟨_, rfl, by simp [operationOf, exec, execValidate, hregs]⟩
  | awaitSensorLow =>
    have hpin := hsample (by rw [hst]; rfl)
    exact .inl ⟨_, rfl, by simp [operationOf, exec, execAwaitSensorLow, hregs, hpin]⟩
  | awaitAckHigh =>
    have hpin := hsample (by rw [hst]; rfl)
    exact .inl ⟨_, rfl, by simp [operationOf, exec, execAwaitAckHigh, hregs, hpin]⟩
  | awaitAckLow =>
    have hpin := hsample (by rw [hst]; rfl)
    exact .inl ⟨_, rfl, by simp [operationOf, exec, execAwaitAckLow, hregs, hpin]⟩
  | bitLoop =>
    have hpin := hsample (by rw [hst]; rfl)
    simp only [operationOf, exec, execBitLoop, hregs, hpin]
    split
    · exact .inr ⟨_, rfl, rfl⟩
    · exact .inl ⟨_, rfl, rfl⟩

/-- Two busy blocks that the end of this clock edge would leave alike take the same step, when `rst` and
the ports their operation reads are alike. -/
theorem step_busy_congr {s t : State} (htick : t.tick = s.tick) (hbusy : resting s.regs.st = false)
    (hrst : t.now.rst = s.now.rst) (hsample : polling s.regs.st = true → t.sample = s.sample)
    (hdelay : s.regs.st = .startPulse → t.now.delayDone = s.now.delayDone) : step t = step s := by
  have hregs : t.regs = s.regs := (congrArg State.regs htick :)
  have hset : ∀ r, (t.setRegs r).tick = (s.setRegs r).tick :=
    fun r => (congrArg (State.setRegs · r) htick :)
  cases hr : s.now.rst with
  | true =>
    rw [step_reset s hr, step_reset t (hrst.trans hr)]
    exact congrArg _ (hset Regs.reset)
  | false =>
    rw [step_busy s hr hbusy, step_busy t (hrst.trans hr) (hregs ▸ hbusy), hregs]
    rcases exec_busy_congr hregs hbusy hsample hdelay with ⟨r, es, et⟩ | ⟨e, es, et⟩
    · rw [es, et]
      exact congrArg _ (hset r)
    · rw [es, et]

/-- The levels put on the host's ports are consumed with their clock edge: nothing keeps them. -/
@[simp] theorem State.withHostPorts_tick (s : State) (start : Level) (family : BitVec 2)
    (timeout : Ticks) : (s.withHostPorts start family timeout).tick = s.tick := rfl

/-- Settles O15: the levels on the host's ports are neither read by the operation of a busy state nor
left for a later clock edge. -/
theorem startWhileBusyIsIgnored : Obligations.StartWhileBusyIsIgnored :=
  fun s start family timeout hbusy =>
    step_busy_congr (s.withHostPorts_tick start family timeout) hbusy rfl (fun _ => rfl) (fun _ => rfl)

/-! ## Commands that start an attempt (R80) -/

/-- At rest a DECODE command with a timeout other than 0 writes the START column. -/
theorem State.decodeCommand_starts {s : State} {t : Ticks} (f : Family)
    (hrest : resting s.regs.st = true) (ht : t ≠ 0) :
    s.decodeCommand f t = s.setRegs (startColumn f t) := by
  rw [State.decodeCommand, if_pos hrest, if_neg ht, Regs.started_eq_startColumn]

/-- At rest the command on the ports is the DECODE command of the family whose code they show. -/
theorem State.acceptPorts_starts {s : State} {f : Family} (hrest : resting s.regs.st = true)
    (hstart : s.now.start = true) (hfam : s.now.family = f.code) (htime : s.now.timeout ≠ 0) :
    s.acceptPorts = s.setRegs (startColumn f s.now.timeout) := by
  rw [State.acceptPorts, if_pos hstart, hfam, Family.ofCode_code]
  exact State.decodeCommand_starts f hrest htime

theorem State.acceptPorts_of_no_start {s : State} (hstart : s.now.start = false) :
    s.acceptPorts = s :=
  if_neg (ne_true_of_eq_false hstart)

/-! ## Commands that start nothing (R83, R84) -/

theorem legalCommand_eq_false {x : Inputs} (h : x.family = 3 ∨ x.timeout = 0) :
    legalCommand x = false := by
  rcases h with h | h <;> simp [legalCommand, h]

/-- At rest the reserved family code and a timeout of 0 on the ports change no register. -/
theorem State.acceptPorts_illegal_regs {s : State} (hrest : resting s.regs.st = true)
    (hbad : s.now.family = 3 ∨ s.now.timeout = 0) : s.acceptPorts.regs = s.regs := by
  rcases s.acceptPorts_legalCommand hrest with ⟨hcmd, -⟩ | ⟨-, e⟩
  · simp [legalCommand_eq_false hbad] at hcmd
  · exact e

theorem State.reservedCommand_regs (s : State) : s.reservedCommand.regs = s.regs := by
  rcases s.reservedCommand_cases with ⟨-, e⟩ | ⟨-, e⟩
  · rw [e]
  · rw [e, State.mark_regs]

theorem State.decodeCommand_zero_regs (s : State) (f : Family) :
    (s.decodeCommand f 0).regs = s.regs := by
  rcases s.decodeCommand_cases f 0 with ⟨-, e⟩ | ⟨-, -, e⟩ | ⟨-, hne, -⟩
  · rw [e]
  · rw [e, State.mark_regs]
  · exact absurd rfl hne

/-- A clock edge at rest with a command that starts nothing leaves the registers, and so every output
port, as they were. -/
theorem step_illegal_command {s : State} (hrst : s.now.rst = false)
    (hrest : resting s.regs.st = true) (hbad : s.now.family = 3 ∨ s.now.timeout = 0) :
    ∃ s' : State, step s = .next s' ∧ s'.regs = s.regs ∧ s'.regs.outputs = s.regs.outputs ∧
      s'.regs.outputs.busy = false := by
  obtain ⟨s', hstep, hregs, -⟩ := step_resting_quiet hrst hrest (legalCommand_eq_false hbad)
  exact ⟨s', hstep, hregs, congrArg _ hregs, by simp [hregs, Regs.busy, hrest]⟩

/-! ## The statements about commands -/

/-- Settles O11: the three DECODE rows and the `IDLE` row run the accepted command, which writes the
START column. -/
theorem decodeCommandStartsAnAttempt : Obligations.DecodeCommandStartsAnAttempt := by
  refine ⟨fun s t hrest ht => ?_, fun s f hst hstart hfam htime => ?_, fun s _ hstart => ?_,
    fun s hst _ hbad => ?_, fun f t => ⟨rfl, rfl, rfl, rfl, rfl, rfl⟩⟩
  · have hstarts f := State.decodeCommand_starts f hrest ht
    exact ⟨congrArg _ (hstarts .type11), congrArg _ (hstarts .type21), congrArg _ (hstarts .type22)⟩
  · have hrest := (resting_iff _).mpr (.inl hst)
    exact congrArg _ (State.acceptPorts_starts hrest hstart hfam htime)
  · exact congrArg _ (State.acceptPorts_of_no_start hstart)
  · exact ⟨_, rfl, State.acceptPorts_illegal_regs ((resting_iff _).mpr (.inl hst)) hbad⟩

/-- Settles O13: the reserved row at most marks the run, and a clock edge with family 3 starts nothing. -/
theorem reservedCommandChangesNoRegister : Obligations.ReservedCommandChangesNoRegister :=
  ⟨fun s _ _ => ⟨_, rfl, s.reservedCommand_regs⟩,
    fun _ hrst hrest _ hfam => step_illegal_command hrst hrest (.inl hfam)⟩

/-- Settles O14: a DECODE row with timeout 0 at most marks the run, and a clock edge with timeout 0
starts nothing, whatever the family is. -/
theorem zeroTimeoutChangesNoRegister : Obligations.ZeroTimeoutChangesNoRegister :=
  ⟨fun s _ => ⟨⟨_, rfl, s.decodeCommand_zero_regs .type11⟩, ⟨_, rfl, s.decodeCommand_zero_regs .type21⟩,
      ⟨_, rfl, s.decodeCommand_zero_regs .type22⟩⟩,
    fun _ hrst hrest _ htime => step_illegal_command hrst hrest (.inr htime)⟩

end Sys2Proof.Machine

/-! PROOFS. The handshake, one clock edge at a time (spec 41_handshake.md R90 to R94). -/

namespace Sys2Proof.Machine

/-! ## The wake-up pulse (R90) -/

theorem Regs.holdPulse_of_done (r : Regs) : r.holdPulse true = { r with st := .releaseLine } := rfl

theorem Regs.holdPulse_of_not_done {r : Regs} (hst : r.st = .startPulse) : r.holdPulse false = r := by
  rw [Regs.holdPulse, ← hst]
  rfl

/-- Settles O18: the edge follows `delay_done`, the delay ports are functions of `st` and `fam`, and
the line is driven by item 9 of R37. -/
theorem startPulseHoldsUntilDelayDone : Obligations.StartPulseHoldsUntilDelayDone := by
  refine ⟨fun s _ hdone => ?_, fun s hst hwait => ?_, fun r hst => ⟨?_, fun hfam => ?_, fun hfam => ?_⟩,
    fun r hinv hst => hinv.lineDriven.mpr (.inl hst)⟩
  · rw [exec, execStartPulse, hdone, Regs.holdPulse_of_done]
    rfl
  · rw [exec, execStartPulse, hwait, Regs.holdPulse_of_not_done hst]
    rfl
  · simp [hst]
  · rw [Regs.outputs_delayMs, wakeMs_toNat, if_pos hfam]
  · rw [Regs.outputs_delayMs, wakeMs_toNat, if_neg (by rcases hfam with e | e <;> simp [e])]

/-! ## The release (R91) -/

/-- Settles O19: twice the budget is exact in the countdown. -/
theorem releaseLineLoadsTwiceTheBudget : Obligations.ReleaseLineLoadsTwiceTheBudget :=
  fun s => ⟨s.regs.doubleBudget, s.regs.doubleBudget_toNat, rfl⟩

/-! ## The waits (R92 to R94) -/

theorem Regs.await_awaited (r : Regs) (level : Level) (next : St) (k : ErrorKind) :
    r.await level level next k = { r with cnt := r.budget, st := next } :=
  if_pos rfl

theorem Regs.await_not_awaited (r : Regs) {level sample : Level} (h : sample ≠ level) (next : St)
    (k : ErrorKind) : r.await level sample next k = r.miss k :=
  if_neg h

theorem Regs.miss_of_last {r : Regs} (h : r.cnt.toNat = 1) (k : ErrorKind) :
    r.miss k = { r with cnt := 0, err := k, st := .done } := by
  rcases r.miss_cases k with ⟨-, e⟩ | ⟨hne, -⟩
  · exact e
  · exact absurd (BitVec.eq_of_toNat_eq h) hne

theorem Regs.miss_of_more {r : Regs} (h : 1 < r.cnt.toNat) (k : ErrorKind) :
    r.miss k = { r with cnt := r.cnt - 1 } := by
  rcases r.miss_cases k with ⟨hlast, -⟩ | ⟨-, e⟩
  · simp [hlast] at h
  · exact e

/-- An operation that misses the awaited level: the error exit at the last unit of budget, and one unit
less before it (R92 to R94). -/
theorem exec_of_miss {i : Instr} {s : State} {k : ErrorKind}
    (hmiss : exec i s = .next (s.setRegs (s.regs.miss k))) :
    (s.regs.cnt.toNat = 1 →
      exec i s = .next { s with regs := { s.regs with cnt := 0, err := k, st := .done } }) ∧
    (1 < s.regs.cnt.toNat → ∃ c : Count, c.toNat = s.regs.cnt.toNat - 1 ∧
      exec i s = .next { s with regs := { s.regs with cnt := c } }) := by
  refine ⟨fun hlast => ?_, fun hmore => ⟨s.regs.cnt - 1, BitVec.toNat_sub_of_le hmore.le, ?_⟩⟩
  · rw [hmiss, Regs.miss_of_last hlast]
    rfl
  · rw [hmiss, Regs.miss_of_more hmore]
    rfl

theorem exec_awaitSensorLow_high {s : State} (h : s.now.pinIn = true) :
    exec .awaitSensorLow s = .next (s.setRegs (s.regs.miss .connect)) := by
  rw [exec, execAwaitSensorLow, State.sample, h, Regs.await_not_awaited _ (by decide)]

theorem exec_awaitAckHigh_low {s : State} (h : s.now.pinIn = false) :
    exec .awaitAckHigh s = .next (s.setRegs (s.regs.miss .ackLow)) := by
  rw [exec, execAwaitAckHigh, State.sample, h, Regs.await_not_awaited _ Bool.false_ne_true]

theorem exec_awaitAckLow_high {s : State} (h : s.now.pinIn = true) :
    exec .awaitAckLow s = .next (s.setRegs (s.regs.miss .ackHigh)) := by
  rw [exec, execAwaitAckLow, State.sample, h]
  rfl

/-- Settles O20: a low sample is the awaited one whatever the countdown is, and a high one is a miss. -/
theorem awaitSensorLowTick : Obligations.AwaitSensorLowTick := by
  refine fun s _ => ⟨fun hlow => ⟨s.regs.budget, s.regs.budget_toNat, ?_⟩,
    fun hhigh => (exec_of_miss (exec_awaitSensorLow_high hhigh)).1,
    fun hhigh => (exec_of_miss (exec_awaitSensorLow_high hhigh)).2⟩
  rw [exec, execAwaitSensorLow, State.sample, hlow, Regs.await_awaited]
  rfl

/-- Settles O21: a high sample is the awaited one whatever the countdown is, and a low one is a miss. -/
theorem awaitAckHighTick : Obligations.AwaitAckHighTick := by
  refine fun s _ => ⟨fun hhigh => ⟨s.regs.budget, s.regs.budget_toNat, ?_⟩,
    fun hlow => (exec_of_miss (exec_awaitAckHigh_low hlow)).1,
    fun hlow => (exec_of_miss (exec_awaitAckHigh_low hlow)).2⟩
  rw [exec, execAwaitAckHigh, State.sample, hhigh, Regs.await_awaited]
  rfl

/-- Settles O22: a low sample is the awaited one whatever the countdown is and clears `prev`, and a high
one is a miss. -/
theorem awaitAckLowTick : Obligations.AwaitAckLowTick := by
  refine fun s _ => ⟨fun hlow => ⟨s.regs.budget, s.regs.budget_toNat, ?_⟩,
    fun hhigh => (exec_of_miss (exec_awaitAckLow_high hhigh)).1,
    fun hhigh => (exec_of_miss (exec_awaitAckLow_high hhigh)).2⟩
  rw [exec, execAwaitAckLow, State.sample, hlow]
  rfl

end Sys2Proof.Machine

/-! PROOFS. The bit loop (spec 42_bitloop.md R110 to R119): one tick, the bit an edge receives, and the
budget of a cell. -/

namespace Sys2Proof.Machine

/-! ## What an edge tick writes (R110, R113, R117, R118) -/

theorem Regs.assemble_bitidx (r : Regs) (b : Level) : (r.assemble b).bitidx = r.bitidx + 1 := by
  rcases r.assemble_cases b with ⟨-, e⟩ | ⟨-, e⟩ <;> rw [e]

/-- Assembly leaves the calibration registers alone (R117). -/
theorem Regs.assemble_calibration (r : Regs) (b : Level) :
    (r.assemble b).floor = r.floor ∧ (r.assemble b).margin = r.margin := by
  rcases r.assemble_cases b with ⟨-, e⟩ | ⟨-, e⟩ <;> rw [e] <;> exact ⟨rfl, rfl⟩

theorem Regs.endCell_bitidx (r : Regs) : r.endCell.bitidx = r.bitidx + 1 := by
  obtain ⟨hbitidx, -, -⟩ := r.measured_frame
  exact (Regs.assemble_bitidx _ _).trans (by rw [hbitidx])

theorem Regs.endCell_sh (r : Regs) :
    r.endCell.sh = if r.bitInByte = 7 then 0 else shiftIn r.sh r.receivedBit := by
  obtain ⟨hbitidx, hsh, -⟩ := r.measured_frame
  have hcases := r.measured.assemble_cases r.receivedBit
  simp only [Regs.bitInByte, hbitidx, hsh] at hcases
  rcases hcases with ⟨h, e⟩ | ⟨h, e⟩
  · exact (congrArg Regs.sh e).trans (if_pos h).symm
  · exact (congrArg Regs.sh e).trans (if_neg h).symm

/-- An edge tick writes `floor` and `margin` in its calibration only (R113, R117). -/
theorem Regs.endCell_calibration (r : Regs) :
    r.endCell.floor = r.measured.floor ∧ r.endCell.margin = r.measured.margin :=
  r.measured.assemble_calibration r.receivedBit

theorem Regs.endCell_st (r : Regs) :
    r.endCell.st = if r.bitidx.toNat = 39 then .validate else r.st := by
  simp [Regs.endCell]

/-- An edge tick outside `floor` and `margin`: it receives `receivedBit` (R110, R117, R118). -/
theorem Regs.edgeWrites_endCell {r : Regs} (h : r.bitidx.toNat ≤ 39) :
    edgeWrites r { r.endCell with prev := false } r.receivedBit where
  st := r.endCell_st
  cnt := r.budget_toNat
  prev := rfl
  bitidx := by
    change r.endCell.bitidx.toNat = _
    rw [r.endCell_bitidx]
    bv_omega
  byteStored hlast := by
    have hframe := (r.endCell_frame_cases.resolve_right fun hno => hno.1 hlast).2
    have hbyte : r.byteIndex ≤ 4 := by rw [Regs.byteIndex]; omega
    exact ⟨r.endCell_sh.trans (if_pos hlast),
      ⟨_, hframe ▸ Frame.get_set_same _ _ hbyte, shiftIn_toNat _ _⟩,
      fun i hi => hframe ▸ Frame.get_set_other _ _ hi⟩
  bitShifted hmore :=
    ⟨(congrArg BitVec.toNat (r.endCell_sh.trans (if_neg hmore))).trans (shiftIn_toNat _ _),
      (r.endCell_frame_cases.resolve_left fun hlast => hmore hlast.1).2⟩
  others := by
    obtain ⟨hfam, hT, -, hrest⟩ := r.endCell_frame
    exact ⟨hfam, hT, hrest⟩

/-- A calibration edge raises the floor and recomputes the margin (R113). -/
theorem Regs.endCell_calibrates {r : Regs} (hcal : r.bitidx.toNat < nlz r.fam)
    (hcnt : r.cnt.toNat ≤ r.T.toNat) :
    r.endCell.floor.toNat = max r.floor.toNat r.cnt.toNat ∧
    r.endCell.margin.toNat = (r.T.toNat - max r.floor.toNat r.cnt.toNat) / 4 := by
  have hmeasured : r.measured = r.calibrate := if_pos (decide_eq_true hcal)
  obtain ⟨hfloor, hmargin⟩ := r.endCell_calibration
  rw [hfloor, hmargin, hmeasured]
  exact r.calibrate_toNat (hcnt.trans_lt r.T.isLt)

/-- A data edge leaves the calibration registers alone (R115). -/
theorem Regs.endCell_keeps_calibration {r : Regs} (hdata : nlz r.fam ≤ r.bitidx.toNat) :
    r.endCell.floor = r.floor ∧ r.endCell.margin = r.margin := by
  have hmeasured : r.measured = r := if_neg (by simpa [Regs.calibrating] using hdata)
  have h := r.endCell_calibration
  rwa [hmeasured] at h

/-- The bit an edge tick receives stands in the registers as bit number `bitidx` (R45, R68). -/
theorem edgeWrites.storedBit {r r' : Regs} {b : Level} (h : edgeWrites r r' b) :
    r'.storedBit r.bitidx.toNat = b := by
  have lowest {v : Byte} (hv : v.toNat = (2 * r.sh.toNat + b.toNat) % 256) : v.getLsbD 0 = b := by
    rw [BitVec.getLsbD, hv]
    cases b <;> simp
  have hbitidx := h.bitidx
  by_cases hlast : r.bitidx.toNat % 8 = 7
  · obtain ⟨-, ⟨v, hget, hv⟩, -⟩ := h.byteStored hlast
    have hstored : r.bitidx.toNat / 8 < r'.byteIndex := by rw [Regs.byteIndex]; omega
    rw [Regs.storedBit, if_pos hstored, hget, hlast]
    exact lowest hv
  · obtain ⟨hsh, -⟩ := h.bitShifted hlast
    have hpartial : ¬ r.bitidx.toNat / 8 < r'.byteIndex := by rw [Regs.byteIndex]; omega
    have hpos : r'.bitInByte - 1 - r.bitidx.toNat % 8 = 0 := by rw [Regs.bitInByte]; omega
    rw [Regs.storedBit, if_neg hpartial, hpos]
    exact lowest hsh

/-! ## One tick (R110, R112, R119) -/

theorem Regs.byteIndex_le_of_bitidx {r : Regs} (h : r.bitidx.toNat ≤ 39) : r.byteIndex ≤ 4 := by
  rw [Regs.byteIndex]
  omega

/-- `BIT_LOOP` runs one tick, unless it is an edge for a byte that does not exist. -/
theorem exec_bitLoop {s : State} (hfits : s.atEdge → s.regs.byteIndex ≤ 4) :
    exec .bitLoop s = .next (s.setRegs (s.regs.bitTick s.sample)) := by
  refine if_neg fun hout => ?_
  obtain ⟨hedge, -, hbyte⟩ := (Regs.writesOutsideFrame_iff _ _).mp hout
  exact hbyte.not_ge (hfits ((fallingEdge_iff _ _).mp hedge))

/-- The clock edge of one tick of the bit loop. -/
theorem step_bitLoop {s : State} (hrst : s.now.rst = false) (hst : s.regs.st = .bitLoop)
    (hfits : s.atEdge → s.regs.byteIndex ≤ 4) :
    step s = .next (s.setRegs (s.regs.bitTick s.sample)).tick :=
  step_of_exec_next hrst (by rw [hst]; rfl) (by rw [hst]; exact exec_bitLoop hfits)

theorem Regs.bitTick_edge {r : Regs} (hprev : r.prev = true) :
    r.bitTick false = { r.endCell with prev := false } := by
  rw [Regs.bitTick, hprev]
  rfl

theorem Regs.bitTick_no_edge {r : Regs} {sample : Level} (h : ¬ (r.prev = true ∧ sample = false)) :
    r.bitTick sample = { r.miss .timeout with prev := sample } := by
  rw [Regs.bitTick, if_neg ((fallingEdge_iff _ _).not.mpr h)]

/-- A tick increments `bitidx` at an edge and leaves it otherwise (R112). -/
theorem Regs.bitTick_bitidx (r : Regs) (sample : Level) :
    (r.bitTick sample).bitidx =
      if r.prev = true ∧ sample = false then r.bitidx + 1 else r.bitidx := by
  split
  next h =>
    obtain ⟨hprev, rfl⟩ := h
    rw [Regs.bitTick_edge hprev]
    exact r.endCell_bitidx
  next h =>
    rw [Regs.bitTick_no_edge h]
    rcases r.miss_cases .timeout with ⟨-, e⟩ | ⟨-, e⟩ <;> rw [e]

theorem exec_bitLoop_edge {s : State} (hedge : s.atEdge) (hbits : s.regs.bitidx.toNat ≤ 39) :
    exec .bitLoop s = .next (s.setRegs { s.regs.endCell with prev := false }) := by
  obtain ⟨hprev, hlow⟩ := hedge
  rw [exec_bitLoop fun _ => Regs.byteIndex_le_of_bitidx hbits, State.sample, hlow,
    Regs.bitTick_edge hprev]

theorem exec_bitLoop_no_edge {s : State} (hedge : ¬ s.atEdge) :
    exec .bitLoop s =
      .next (s.setRegs { s.regs.miss .timeout with prev := s.now.pinIn }) := by
  rw [exec_bitLoop (fun h => absurd h hedge), State.sample, Regs.bitTick_no_edge hedge]

/-- Settles O24: an edge is `endCell`, any other tick a miss. -/
theorem bitLoopTick : Obligations.BitLoopTick := by
  refine ⟨fun s _ hbits hedge => ?_, fun s _ hedge hlast => ?_, fun s _ hedge hmore => ?_⟩
  · exact ⟨_, s.regs.receivedBit, exec_bitLoop_edge hedge hbits, rfl, s.regs.receivedBit_iff,
      Regs.edgeWrites_endCell hbits, Regs.endCell_calibrates, Regs.endCell_keeps_calibration⟩
  · rw [exec_bitLoop_no_edge hedge, Regs.miss_of_last hlast]
    rfl
  · refine ⟨s.regs.cnt - 1, BitVec.toNat_sub_of_le hmore.le, ?_⟩
    rw [exec_bitLoop_no_edge hedge, Regs.miss_of_more hmore]
    rfl

/-- Settles O26: `bitidx` tells an edge from a miss, and the low sample an edge leaves in `prev` rules
out an edge at the next tick. -/
theorem edgesAreHighThenLow : Obligations.EdgesAreHighThenLow := by
  intro s s' hinv hrst hst h
  rw [step_bitLoop hrst hst fun _ => Regs.byteIndex_le_of_bitidx (hinv.bitidxLoop hst)] at h
  obtain rfl := Host.Outcome.next.inj h
  have hbitidx := s.regs.bitTick_bitidx s.sample
  have hkept (hedge : ¬ s.atEdge) := hbitidx.trans (if_neg hedge)
  have hnext : s.regs.bitidx ≠ s.regs.bitidx + 1 := by bv_omega
  refine ⟨⟨fun hinc => ?_, fun hedge => hbitidx.trans (if_pos hedge)⟩, hkept, rfl,
    fun hedge hagain => ?_⟩
  · exact by_contra fun hedge => hnext ((hkept hedge).symm.trans hinc)
  · have hhigh : s.sample = true := hagain.1
    exact absurd (hhigh.symm.trans hedge.2) (by decide)

/-- Settles O27: the received bit is the stored one, and it is 1 only with `margin ≤ floor`. -/
theorem classifierDoesNotWrapAround : Obligations.ClassifierDoesNotWrapAround := by
  intro s hinv hrst hst hedge _ hmargin
  have hbits := hinv.bitidxLoop hst
  have hzero : s.regs.receivedBit = false := by
    rw [← Bool.not_eq_true, Regs.receivedBit_iff]
    omega
  exact ⟨_, step_bitLoop_edge hrst hst hedge (Regs.byteIndex_le_of_bitidx hbits),
    s.regs.endCell_bitidx, (Regs.edgeWrites_endCell hbits).storedBit.trans hzero⟩

/-! ## Ticks without an edge, and the budget (R119) -/

/-- The sample before the `k`-th coming tick: `prev` before the first one. -/
def State.sampleBefore (s : State) : Nat → Level
  | 0 => s.regs.prev
  | k + 1 => s.sampleAt k

theorem State.edgeAt_iff (s : State) (k : Nat) :
    s.edgeAt k ↔ s.sampleBefore k = true ∧ s.sampleAt k = false := by
  cases k <;> rfl

/-- One more edge at the end of a run. -/
theorem run_then_step {n : Nat} {s t u : State} (hrun : run n s = .next t) (hstep : step t = .next u) :
    run (n + 1) s = .next u := by
  induction n generalizing s with
  | zero =>
    obtain rfl := Host.Outcome.next.inj hrun
    exact run_succ 0 hstep
  | succ n ih =>
    cases h : step s with
    | next s' =>
      rw [run_succ n h] at hrun
      rw [run_succ (n + 1) h]
      exact ih hrun
    | fault e => simp [run, h] at hrun
    | refused e => simp [run, h] at hrun

/-- `t` is `s` after `k` ticks of the bit loop without an edge and with budget left. -/
structure State.QuietTicks (s : State) (k : Nat) (t : State) : Prop where
  ran    : run k s = .next t
  cnt    : t.regs.cnt.toNat = s.regs.cnt.toNat - k
  regs   : t.regs = { s.regs with cnt := t.regs.cnt, prev := s.sampleBefore k }
  inputs : ∀ i, t.env.inputAt i = s.env.inputAt (k + i)

section Quiet
variable {s t : State} {k : Nat} (h : s.QuietTicks k t)
include h

theorem State.QuietTicks.st : t.regs.st = s.regs.st := (congrArg Regs.st h.regs :)

theorem State.QuietTicks.atEdge_iff : t.atEdge ↔ s.edgeAt k := by
  have hprev : t.regs.prev = s.sampleBefore k := (congrArg Regs.prev h.regs :)
  rw [State.edgeAt_iff, State.atEdge, hprev, State.now, h.inputs 0]
  rfl

/-- The clock edge after quiet ticks, when it is no edge either, costs a unit of budget. -/
theorem State.QuietTicks.step_no_edge (hrst : (s.env.inputAt k).rst = false)
    (hst : s.regs.st = .bitLoop) (hedge : ¬ s.edgeAt k) :
    step t = .next (t.setRegs { t.regs.miss .timeout with prev := s.sampleAt k }).tick := by
  have hnow : t.now = s.env.inputAt k := h.inputs 0
  have hst' := h.st.trans hst
  refine step_of_exec_next (by rw [hnow, hrst]) (by rw [hst']; rfl) ?_
  rw [hst']
  exact (exec_bitLoop_no_edge (h.atEdge_iff.not.mpr hedge)).trans (by rw [hnow]; rfl)

end Quiet

/-- Fewer ticks without an edge than there are units of budget keep the block in the bit loop. -/
theorem quietTicks_of_no_edge {s : State} {k : Nat} (hst : s.regs.st = .bitLoop)
    (hk : k < s.regs.cnt.toNat) (hrst : s.noResetFor k) (hedges : ∀ i, i < k → ¬ s.edgeAt i) :
    ∃ t, s.QuietTicks k t := by
  induction k with
  | zero => exact ⟨s, rfl, rfl, rfl, fun i => by rw [Nat.zero_add]⟩
  | succ k ih =>
    obtain ⟨t, ht⟩ := ih (by omega) (fun i hi => hrst i (by omega)) fun i hi => hedges i (by omega)
    have hmore : 1 < t.regs.cnt.toNat := by rw [ht.cnt]; omega
    have hstep := ht.step_no_edge (hrst k k.lt_succ_self) hst (hedges k k.lt_succ_self)
    rw [Regs.miss_of_more hmore] at hstep
    refine ⟨_, run_then_step ht.ran hstep, ?_, ?_, fun i => ?_⟩
    · exact (BitVec.toNat_sub_of_le hmore.le).trans (congrArg (· - 1) ht.cnt)
    · rw [ht.regs]
      rfl
    · rw [State.tick_inputAt, State.setRegs_env, ht.inputs, Nat.succ_add_eq_add_succ]

/-- The first edge among the ticks the budget pays for ends its cell (R119). -/
theorem run_bitLoop_until_edge {s : State} {j : Nat} (hinv : s.Inv) (hst : s.regs.st = .bitLoop)
    (hj : j < s.regs.cnt.toNat) (hrst : s.noResetFor s.regs.cnt.toNat)
    (hbefore : ∀ i, i < j → ¬ s.edgeAt i) (hedge : s.edgeAt j) :
    ∃ s' : State, run (j + 1) s = .next s' ∧ s'.regs.st ≠ .done ∧
      s'.regs.bitidx.toNat = s.regs.bitidx.toNat + 1 ∧ s'.regs.cnt.toNat = s.regs.T.toNat := by
  obtain ⟨t, ht⟩ := quietTicks_of_no_edge hst hj (fun i hi => hrst i (hi.trans hj)) hbefore
  have hbitidx : t.regs.bitidx = s.regs.bitidx := (congrArg Regs.bitidx ht.regs :)
  have hT : t.regs.T = s.regs.T := (congrArg Regs.T ht.regs :)
  have hbits : t.regs.bitidx.toNat ≤ 39 := hbitidx ▸ hinv.bitidxLoop hst
  have hstep := step_bitLoop_edge (s := t) (by rw [State.now, ht.inputs 0]; exact hrst j hj)
    (ht.st.trans hst) (ht.atEdge_iff.mpr hedge) (Regs.byteIndex_le_of_bitidx hbits)
  have hwrites := Regs.edgeWrites_endCell hbits
  refine ⟨_, run_then_step ht.ran hstep, ?_, hbitidx ▸ hwrites.bitidx, hT ▸ hwrites.cnt⟩
  rw [State.tick_regs, State.setRegs_regs, hwrites.st, ht.st, hst]
  split <;> decide

/-- As many ticks without an edge as there are units of budget end the attempt with `Timeout` (R119). -/
theorem run_bitLoop_timeout {s : State} (hst : s.regs.st = .bitLoop) (hcnt : 1 ≤ s.regs.cnt.toNat)
    (hrst : s.noResetFor s.regs.cnt.toNat) (hnone : ∀ i, i < s.regs.cnt.toNat → ¬ s.edgeAt i) :
    ∃ s' : State, run s.regs.cnt.toNat s = .next s' ∧
      s'.regs = { s.regs with st := .done, err := .timeout, cnt := 0,
                              prev := s.sampleAt (s.regs.cnt.toNat - 1) } := by
  obtain ⟨n, hn⟩ := Nat.exists_eq_add_of_le' hcnt
  have hlt : n < s.regs.cnt.toNat := by omega
  obtain ⟨t, ht⟩ := quietTicks_of_no_edge hst hlt (fun i hi => hrst i (hi.trans hlt))
    fun i hi => hnone i (hi.trans hlt)
  have hlast : t.regs.cnt.toNat = 1 := by rw [ht.cnt]; omega
  have hstep := ht.step_no_edge (hrst n hlt) hst (hnone n hlt)
  rw [Regs.miss_of_last hlast] at hstep
  rw [hn]
  refine ⟨_, run_then_step ht.ran hstep, ?_⟩
  rw [ht.regs]
  rfl

/-- Settles O25: the ticks before the first edge are quiet, and so are all but the last of a budget
without an edge. -/
theorem timeoutAtTheLastTickWithoutEdge : Obligations.TimeoutAtTheLastTickWithoutEdge := by
  refine fun s hinv hst hrst => ⟨fun j hj hbefore hedge =>
    run_bitLoop_until_edge hinv hst hj hrst hbefore hedge, fun hnone => ?_⟩
  obtain ⟨s', hrun, hregs⟩ :=
    run_bitLoop_timeout hst (hinv.budgetLeft (by rw [hst]; rfl)) hrst hnone
  obtain ⟨hframe, hreading⟩ := Regs.not_valid_of_timeoutClass (r := s'.regs) (by rw [hregs]; rfl)
  exact ⟨s', hrun, hframe, hreading, hregs⟩

end Sys2Proof.Machine

/-! PROOFS. Validation (spec 43_validate_decode.md R131 to R136): the decoded fields in integers, and the
whole step of `VALIDATE`. -/

namespace Sys2Proof.Machine

/-! ## The masks and the packing of two bytes -/

/-- The seven bits of a whole unit (R134). -/
theorem Byte.and_0x7F_toNat (b : Byte) : (b &&& 0x7F).toNat = b.toNat % 128 :=
  (BitVec.toNat_and ..).trans (Nat.and_two_pow_sub_one_eq_mod b.toNat 7)

/-- The two upper bits of a ten-bit magnitude (R135). -/
theorem Byte.and_0x03_toNat (b : Byte) : (b &&& 0x03).toNat = b.toNat % 4 :=
  (BitVec.toNat_and ..).trans (Nat.and_two_pow_sub_one_eq_mod b.toNat 2)

/-- Of the sign-magnitude byte, the second mask drops the sign and leaves the two magnitude bits (R136). -/
theorem Byte.and_0x83_and_0x7F (b : Byte) : (b &&& 0x83) &&& 0x7F = b &&& 0x03 :=
  BitVec.and_assoc b 0x83 0x7F

/-- The first mask keeps the sign bit (R136). -/
theorem Byte.and_0x83_sign (b : Byte) : (b &&& 0x83).getLsbD 7 = true ↔ 128 ≤ b.toNat := by
  have hmsb : (b &&& 0x83).getLsbD 7 = b.msb := by
    rw [BitVec.getLsbD_and, BitVec.msb_eq_getLsbD_last]
    exact Bool.and_true _
  rw [hmsb, BitVec.msb_eq_decide, decide_eq_true_iff]

/-- Ten times a seven-bit whole number fits in eleven bits (R134). -/
theorem wholeUnits_toNat (b : Byte) :
    (10 * (b &&& 0x7F).setWidth 11 : Tenths).toNat = 10 * (b.toNat % 128) := by
  have hunits := Byte.and_0x7F_toNat b
  bv_omega

/-- The ten bits of two bytes fit in eleven (R135). -/
theorem tenBits_toNat (hi lo : Byte) :
    ((hi &&& 0x03).setWidth 11 * 256 + lo.setWidth 11 : Tenths).toNat =
      hi.toNat % 4 * 256 + lo.toNat := by
  have hupper := Byte.and_0x03_toNat hi
  bv_omega

/-! ## The decoded fields (R134 to R136) -/

/-- `Decode11` over the integers (R134). -/
theorem Regs.decodeFields_of_type11 {r : Regs} (hfam : r.fam = .type11) :
    r.decodeFields.hum.toNat = 10 * (r.frame.b0.toNat % 128) ∧ r.decodeFields.tneg = false ∧
    r.decodeFields.tmag.toNat = 10 * (r.frame.b2.toNat % 128) := by
  rw [Regs.decodeFields, hfam]
  exact ⟨wholeUnits_toNat _, rfl, wholeUnits_toNat _⟩

/-- `Decode2x` over the integers (R135, R136). -/
theorem Regs.decode2x_toNat (r : Regs) :
    r.decode2x.hum.toNat = r.frame.b0.toNat % 4 * 256 + r.frame.b1.toNat ∧
    (r.decode2x.tneg = true ↔ 128 ≤ r.frame.b2.toNat) ∧
    r.decode2x.tmag.toNat = r.frame.b2.toNat % 4 * 256 + r.frame.b3.toNat := by
  refine ⟨tenBits_toNat _ _, Byte.and_0x83_sign _, ?_⟩
  rw [Regs.decode2x, Byte.and_0x83_and_0x7F]
  exact tenBits_toNat _ _

/-! ## The step -/

/-- The verdict over the integers (R131, R132). -/
theorem Frame.verdict_eq (f : Frame) : f.verdict =
    if (f.b0.toNat + f.b1.toNat + f.b2.toNat + f.b3.toNat) % 256 = f.b4.toNat then .ok
    else .checksum := by
  simp only [Frame.verdict, f.checksumOk_iff]

/-- Settles O32: the step writes the decoder's fields, the verdict and `DONE` over registers the decoder
leaves alone, and each value is its integer formula. -/
theorem validateDecodesAndCommits : Obligations.ValidateDecodesAndCommits := by
  intro s _
  refine ⟨s.regs.decodeFields.hum, s.regs.decodeFields.tmag, s.regs.decodeFields.tneg,
    s.regs.frame.verdict, ?_, s.regs.frame.verdict_eq, Regs.decodeFields_of_type11, fun hfam => ?_⟩
  · exact (congrArg (fun q : Regs => Host.Outcome.next (s.setRegs
      { q with hum := s.regs.decodeFields.hum, tneg := s.regs.decodeFields.tneg,
               tmag := s.regs.decodeFields.tmag, err := s.regs.frame.verdict, st := .done }))
      s.regs.decodeFields_frame :)
  · have hne : s.regs.fam ≠ .type11 := by rcases hfam with e | e <;> simp [e]
    rw [Regs.decodeFields_of_ne_type11 hne]
    exact s.regs.decode2x_toNat

end Sys2Proof.Machine

/-! PROOFS. Outcomes (spec 60_exceptions.md R152, R153, R156): the steps that enter `DONE`, and what
`DONE` does with the command on the ports. -/

namespace Sys2Proof.Machine

/-- Settles O12: `DONE` accepts the command on the ports as `IDLE` does, its flags are functions of `st`,
and item 9 of R37 releases the line. -/
theorem doneAcceptsALegalCommandOrHolds : Obligations.DoneAcceptsALegalCommandOrHolds := by
  have hrest {s : State} (hst : s.regs.st = .done) : resting s.regs.st = true :=
    (resting_iff _).mpr (.inr hst)
  refine ⟨fun s f hst hstart hfam htime => ?_, fun s hst hquiet => ⟨_, rfl, ?_⟩,
    fun s _ hstart => ?_, fun r hst => ⟨r.isDone_iff.mpr hst, ?_, ?_⟩, fun r hinv hst => ?_⟩
  · exact congrArg _ (State.acceptPorts_starts (hrest hst) hstart hfam htime)
  · rcases hquiet with hstart | hbad
    · rw [State.acceptPorts_of_no_start hstart]
    · exact State.acceptPorts_illegal_regs (hrest hst) hbad
  · exact congrArg _ (State.acceptPorts_of_no_start hstart)
  · simp [Regs.busy, hst, resting]
  · simp [hst]
  · simpa [hst] using hinv.lineDriven

/-! ## The operations that enter `DONE` (R152, R153)

Each takes registers outside `DONE` to registers in `DONE`, and says which registers it wrote. -/

section EntersDone
variable {r : Regs} (hst : r.st ≠ .done)
include hst

theorem Regs.miss_enters_done {k : ErrorKind} (hdone : (r.miss k).st = .done) :
    r.miss k = { r with err := k, st := .done, cnt := 0 } := by
  rcases r.miss_cases k with ⟨-, e⟩ | ⟨-, e⟩
  · exact e
  · exact absurd ((congrArg Regs.st e).symm.trans hdone) hst

theorem Regs.await_enters_done {level sample : Level} {next : St} {k : ErrorKind}
    (hnext : next ≠ .done) (hdone : (r.await level sample next k).st = .done) :
    r.await level sample next k = { r with err := k, st := .done, cnt := 0 } := by
  rcases r.await_cases level sample next k with ⟨-, e⟩ | ⟨-, e⟩
  · exact absurd ((congrArg Regs.st e).symm.trans hdone) hnext
  · rw [e] at hdone ⊢
    exact Regs.miss_enters_done hst hdone

theorem Regs.awaitFirstCell_enters_done {sample : Level}
    (hdone : (r.awaitFirstCell sample).st = .done) :
    r.awaitFirstCell sample = { r with err := .ackHigh, st := .done, cnt := 0 } := by
  rcases r.awaitFirstCell_cases sample with ⟨-, e⟩ | ⟨-, e⟩ <;> rw [e] at hdone ⊢
  · cases hdone
  · exact Regs.miss_enters_done hst hdone

theorem Regs.endCell_st_ne_done : r.endCell.st ≠ .done := by
  rw [Regs.endCell_st]
  split
  · decide
  · exact hst

theorem Regs.bitTick_enters_done {sample : Level} (hdone : (r.bitTick sample).st = .done) :
    r.bitTick sample = { r with err := .timeout, st := .done, cnt := 0, prev := sample } := by
  rcases r.bitTick_cases sample with ⟨-, -, e⟩ | ⟨-, -, e⟩ | ⟨-, -, e⟩
  · exact absurd ((congrArg Regs.st e).symm.trans hdone) (Regs.endCell_st_ne_done hst)
  · exact e
  · exact absurd ((congrArg Regs.st e).symm.trans hdone) hst

end EntersDone

/-- The error exit after the decoder writes `err`, `st` and the reading registers, nothing else (R131,
R152). -/
theorem Regs.decodeFields_raise (r : Regs) (k : ErrorKind) :
    r.decodeFields.raise k = { r with err := k, st := .done, hum := r.decodeFields.hum,
                                      tneg := r.decodeFields.tneg, tmag := r.decodeFields.tmag } :=
  congrArg (fun q : Regs => { q with err := k, st := .done, hum := r.decodeFields.hum,
                                     tneg := r.decodeFields.tneg, tmag := r.decodeFields.tmag })
    r.decodeFields_frame

theorem Frame.verdict_ok_or_checksum (f : Frame) : f.verdict = .ok ∨ f.verdict = .checksum := by
  unfold Frame.verdict
  split
  · exact .inl rfl
  · exact .inr rfl

theorem Regs.holdPulse_st_ne_done (r : Regs) (delayDone : Level) :
    (r.holdPulse delayDone).st ≠ .done := by
  cases delayDone <;> exact St.noConfusion

/-- `IDLE` stays or starts an attempt: no command leads into `DONE` (R153). -/
theorem State.acceptPorts_st_ne_done {s : State} (hrest : resting s.regs.st = true)
    (hst : s.regs.st ≠ .done) : s.acceptPorts.regs.st ≠ .done := by
  rcases s.acceptPorts_legalCommand hrest with ⟨-, f, -, e⟩ | ⟨-, e⟩ <;> rw [e]
  · exact St.noConfusion
  · exact hst

/-- Settles O38: of the operations a step may run, those of the four polling states and of `VALIDATE`
can enter `DONE`, each with its own writes. -/
theorem eachErrorHasItsState : Obligations.EachErrorHasItsState := by
  intro s s' hrst h hst hdone
  rcases step_cases h with ⟨hreset, -⟩ | ⟨-, hrest, rfl⟩ | ⟨-, -, rfl⟩ | ⟨-, -, rfl⟩ |
    ⟨-, hfrom, rfl⟩ | ⟨-, hfrom, rfl⟩ | ⟨-, hfrom, rfl⟩ | ⟨-, hfrom, -, rfl⟩ | ⟨-, hfrom, rfl⟩
  · simp [hrst] at hreset
  · exact absurd hdone (State.acceptPorts_st_ne_done hrest hst)
  · exact absurd hdone (Regs.holdPulse_st_ne_done _ _)
  · exact absurd hdone St.noConfusion
  · exact .inl ⟨hfrom, Regs.await_enters_done hst St.noConfusion hdone⟩
  · exact .inr (.inl ⟨hfrom, Regs.await_enters_done hst St.noConfusion hdone⟩)
  · exact .inr (.inr (.inl ⟨hfrom, Regs.awaitFirstCell_enters_done hst hdone⟩))
  · exact .inr (.inr (.inr (.inl ⟨hfrom, Regs.bitTick_enters_done hst hdone⟩)))
  · exact .inr (.inr (.inr (.inr ⟨hfrom, s.regs.frame.verdict_ok_or_checksum,
      s.regs.decodeFields_raise _⟩)))

end Sys2Proof.Machine

/-! ## The reset edge (R180) -/

namespace Sys2Proof.Machine

/-- Settles O9: an edge with `rst = 1` leaves the registers of the reset column, in every state, and the
first two parts of `resetAndStartColumns` say what that column and the ports over it hold. -/
theorem resetEdgeWritesEveryRegister : Obligations.ResetEdgeWritesEveryRegister := by
  intro s hrst
  obtain ⟨⟨hst, hfam, hT, hcnt, hprev, hbitidx, hsh, hframe, hfloor, hmargin, herr, hhum, htneg, htmag,
    hpinOe⟩, ⟨hbusy, hdone, hframeValid, hreadingValid, hdelayReq, hpinPull, -⟩, -⟩ :=
    resetAndStartColumns
  exact ⟨_, step_reset s hrst, hst, hpinOe, hfam, hT, hcnt, hprev, hbitidx, hsh, hframe, hfloor, hmargin,
    herr, hhum, htneg, htmag, hbusy, hdone, hframeValid, hreadingValid, hdelayReq, hpinPull⟩

end Sys2Proof.Machine

/-! PROOFS. The encoding (spec 30_encoding.md R60, R61, R64, R72, R73): decoder, encoder and opcode table
are one. -/

namespace Sys2Proof

/-! ## Command words -/

/-- The operand is the low 15 bits of the command word (R60, R61). -/
theorem cmdTimeout_eq_setWidth (w : BitVec 17) : cmdTimeout w = w.setWidth 15 :=
  (BitVec.setWidth_eq_extractLsb' (by decide)).symm

/-- The family code under the mask `0x18000` is the word's family code (R72). -/
theorem cmdFamily_of_mask {w : BitVec 17} {c : BitVec 2} (h : w &&& 0x18000 = cmdWord c 0) :
    cmdFamily w = c := by
  rw [← cmdWord_fields w, mask_cmdWord] at h
  simpa using congrArg cmdFamily h

/-- A command word decodes to the command of the family code under the mask, with its low 15 bits. -/
theorem decode_cmd_of_mask {w : BitVec 17} {c : BitVec 2} (h : w &&& 0x18000 = cmdWord c 0) :
    decode (.cmd w) = .ok (commandOf c (w.setWidth 15)) := by
  rw [decode, cmdFamily_of_mask h, cmdTimeout_eq_setWidth]

/-! ## Decoding and encoding -/

theorem encode_commandOf (c : BitVec 2) (t : Ticks) : encode (commandOf c t) = .cmd (cmdWord c t) := by
  unfold commandOf
  cases hc : Family.ofCode c with
  | none =>
    rw [(Family.ofCode_eq_none c).mp hc]
    rfl
  | some f =>
    rw [Family.code_of_ofCode hc]
    cases f <;> rfl

theorem encode_operationOf (st : St) : encode (operationOf st) = .state st.code := by
  cases st <;> rfl

theorem decode_cmdWord (c : BitVec 2) (t : Ticks) :
    decode (.cmd (cmdWord c t)) = .ok (commandOf c t) := by
  simp [decode]

theorem decode_encode (i : Instr) : decode (encode i) = .ok i := by
  cases i with
  | decodeT11 t => exact decode_cmdWord 0 t
  | decodeT21 t => exact decode_cmdWord 1 t
  | decodeT22 t => exact decode_cmdWord 2 t
  | cmdReserved t => exact decode_cmdWord 3 t
  | _ => rfl

theorem encode_of_decode {w : FetchWord} {i : Instr} (h : decode w = .ok i) : encode i = w := by
  cases w with
  | cmd w =>
    obtain rfl := Except.ok.inj h
    rw [encode_commandOf, cmdWord_fields]
  | state c =>
    unfold decode at h
    cases hc : St.ofCode c with
    | none => simp [hc] at h
    | some st =>
      obtain rfl : operationOf st = i := by simpa [hc] using h
      rw [encode_operationOf, St.code_of_ofCode hc]

/-- Settles O1: a command word is its two fields, and a state code its state. -/
theorem decodeAndEncodeAgree : Obligations.DecodeAndEncodeAgree :=
  ⟨decode_encode, fun _ _ => encode_of_decode⟩

/-! ## The opcode table (R72) -/

/-- Settles O2: each command row is `decode_cmd_of_mask` at its family code. -/
theorem decoderFollowsTheOpcodeTable : Obligations.DecoderFollowsTheOpcodeTable :=
  ⟨fun _ => decode_cmd_of_mask (c := 0), fun _ => decode_cmd_of_mask (c := 1),
    fun _ => decode_cmd_of_mask (c := 2), fun _ => decode_cmd_of_mask (c := 3),
    rfl, rfl, rfl, rfl, rfl, rfl, rfl, rfl, rfl, by decide⟩

/-- The encoding of every instruction fits the row of the instruction. -/
theorem fitsRow_encode (i : Instr) : fitsRow (encode i) (tableRow i) = true := by
  cases i with
  | decodeT11 t => exact Laws.FitsItsRow.decodeT11 t
  | decodeT21 t => exact Laws.FitsItsRow.decodeT21 t
  | decodeT22 t => exact Laws.FitsItsRow.decodeT22 t
  | cmdReserved t => exact Laws.FitsItsRow.cmdReserved t
  | _ => rfl

theorem operand_encode (i : Instr) : (encode i).operand = i.operand := by
  have hcmd (c : BitVec 2) (t : Ticks) : (FetchWord.cmd (cmdWord c t)).operand = some t := by
    rw [FetchWord.operand, ← cmdTimeout_eq_setWidth, cmdTimeout_cmdWord]
  cases i with
  | decodeT11 t => exact hcmd 0 t
  | decodeT21 t => exact hcmd 1 t
  | decodeT22 t => exact hcmd 2 t
  | cmdReserved t => exact hcmd 3 t
  | _ => rfl

/-- An instruction with its operand replaced, where it has one. -/
def Instr.withOperand : Instr → Ticks → Instr
  | .decodeT11 _, t => .decodeT11 t
  | .decodeT21 _, t => .decodeT21 t
  | .decodeT22 _, t => .decodeT22 t
  | .cmdReserved _, t => .cmdReserved t
  | i, _ => i

theorem Instr.withOperand_ctorIdx (i : Instr) (t : Ticks) : (i.withOperand t).ctorIdx = i.ctorIdx := by
  cases i <;> rfl

theorem Instr.withOperand_of_operand {i : Instr} {t : Ticks} (h : i.operand = some t) :
    i.withOperand t = i := by
  cases i <;> simp_all [Instr.operand, Instr.withOperand]

/-- A command word that fits a row is that row's command, with the word's operand. -/
theorem decode_cmd_of_fitsRow {w : BitVec 17} {i : Instr} (h : fitsRow (.cmd w) (tableRow i) = true) :
    decode (.cmd w) = .ok (i.withOperand (w.setWidth 15)) := by
  cases i with
  | decodeT11 => exact decode_cmd_of_mask (c := 0) (eq_of_beq h)
  | decodeT21 => exact decode_cmd_of_mask (c := 1) (eq_of_beq h)
  | decodeT22 => exact decode_cmd_of_mask (c := 2) (eq_of_beq h)
  | cmdReserved => exact decode_cmd_of_mask (c := 3) (eq_of_beq h)
  | _ => exact absurd h Bool.false_ne_true

/-- A state code that fits a row is that row's code. -/
theorem decode_state_of_fitsRow {c : BitVec 4} {i : Instr} (h : fitsRow (.state c) (tableRow i) = true) :
    decode (.state c) = .ok i := by
  cases i with
  | decodeT11 | decodeT21 | decodeT22 | cmdReserved => exact absurd h Bool.false_ne_true
  | _ => revert c; decide

/-- A word that fits the row of an instruction decodes to one of the same constructor, and to that very
instruction when it carries its operand. -/
theorem decode_of_fitsRow {w : FetchWord} {i : Instr} (h : fitsRow w (tableRow i) = true) :
    ∃ j : Instr, decode w = .ok j ∧ j.ctorIdx = i.ctorIdx ∧ (w.operand = i.operand → j = i) := by
  cases w with
  | cmd w =>
    exact ⟨_, decode_cmd_of_fitsRow h, i.withOperand_ctorIdx _,
      fun hop => Instr.withOperand_of_operand hop.symm⟩
  | state c => exact ⟨i, decode_state_of_fitsRow h, rfl, fun _ => rfl⟩

/-- Settles O3: the decoder answers one instruction, whose row the word fits because the word is its
encoding. -/
theorem opcodeRowsDoNotOverlap : Obligations.OpcodeRowsDoNotOverlap := by
  refine ⟨fun w i j hi hj => ?_, fun w i => ⟨fun h => ?_, fun ⟨hfits, hop⟩ => ?_⟩⟩
  · obtain ⟨i', hdi, hci, -⟩ := decode_of_fitsRow hi
    obtain ⟨j', hdj, hcj, -⟩ := decode_of_fitsRow hj
    obtain rfl : i' = j' := Except.ok.inj (hdi.symm.trans hdj)
    exact hci.symm.trans hcj
  · obtain rfl := encode_of_decode h
    exact ⟨fitsRow_encode i, operand_encode i⟩
  · obtain ⟨j, hd, -, hj⟩ := decode_of_fitsRow hfits
    rw [hd, hj hop]

/-! ## The host's numbering -/

/-- Settles O4: the decoder on nine words written out. -/
theorem sampleWordsDecode : Obligations.SampleWordsDecode := by
  unfold Obligations.SampleWordsDecode
  decide

end Sys2Proof

/-! PROOFS. The row a clock edge looks up and runs (spec 30_encoding.md R72; assumptions 7, 8, 11). -/

namespace Sys2Proof.Machine

/-- Settles O5: the step without reset is `exec` of the decoded row, ended by `tick`. -/
theorem stepRunsTheDecodedInstruction : Obligations.StepRunsTheDecodedInstruction := by
  refine ⟨fun s => ?_, fun s i hrst hdecode => ?_⟩
  · simp only [State.fetchWord, Bool.and_eq_true, cmdWord]
  · unfold step
    rw [hrst, hdecode]
    rfl

theorem State.fetchWord_of_request {s : State} (hrest : resting s.regs.st = true)
    (hstart : s.now.start = true) : s.fetchWord = .cmd (cmdWord s.now.family s.now.timeout) := by
  rw [State.fetchWord, hrest, hstart]
  rfl

theorem State.fetchWord_of_no_start {s : State} (hstart : s.now.start = false) :
    s.fetchWord = .state s.regs.st.code := by
  rw [State.fetchWord, hstart, Bool.and_false]
  rfl

/-- A command on the ports of the next edge comes to a block at rest. -/
theorem State.presentCommand_resting (s : State) (w : BitVec 17) :
    resting (s.presentCommand w).regs.st = true := by
  change resting (if resting s.regs.st then s.regs.st else .idle) = true
  split
  next hrest => exact hrest
  next => rfl

theorem State.fetchWord_presentCommand (s : State) (w : BitVec 17) :
    (s.presentCommand w).fetchWord = .cmd w :=
  (State.fetchWord_of_request (s.presentCommand_resting w) rfl).trans
    (congrArg FetchWord.cmd (cmdWord_fields w))

/-- A code in use, put into `st`, is looked up next. -/
theorem State.fetchWord_enterState (s : State) {c : BitVec 4} {st : St} (h : St.ofCode c = some st) :
    (s.enterState c).now.rst = false ∧ (s.enterState c).fetchWord = .state c := by
  rw [State.enterState, h, St.code_of_ofCode h]
  exact ⟨rfl, State.fetchWord_of_no_start rfl⟩

/-- A word the decoder reads, placed in a state, is the word of the next edge. -/
theorem State.fetchWord_placeWord (s : State) {w : FetchWord} {i : Instr} (h : decode w = .ok i) :
    (s.placeWord w).now.rst = false ∧ (s.placeWord w).fetchWord = w := by
  cases w with
  | cmd w => exact ⟨rfl, s.fetchWord_presentCommand w⟩
  | state c =>
    unfold decode at h
    cases hc : St.ofCode c with
    | none => simp [hc] at h
    | some st => exact s.fetchWord_enterState hc

theorem decode_of_decodeTableWord {nbits w : Nat} {i : Instr} (h : decodeTableWord nbits w = some i) :
    decode (tableWord nbits w) = .ok i := by
  unfold decodeTableWord at h
  split at h
  next j hj =>
    obtain rfl := Option.some.inj h
    exact hj
  next => cases h

/-- Settles O6: the word placed is the word looked up. -/
theorem placedWordIsLookedUpNext : Obligations.PlacedWordIsLookedUpNext := by
  intro s nbits w i h
  have hdecode := decode_of_decodeTableWord h
  obtain ⟨hrst, hword⟩ := s.fetchWord_placeWord hdecode
  exact ⟨hrst, by rw [State.withFetchWord, hword, hdecode]⟩

/-! ## The row of the command and the row of the state (R72, R82) -/

theorem exec_operationOf_resting {s : State} (hrest : resting s.regs.st = true) :
    exec (operationOf s.regs.st) s = .next s.acceptPorts := by
  rcases (resting_iff _).mp hrest with hst | hst <;> rw [hst] <;> rfl

theorem State.decodeCommand_of_busy {s : State} (hbusy : resting s.regs.st = false) (f : Family)
    (t : Ticks) : s.decodeCommand f t = s :=
  if_neg (ne_true_of_eq_false hbusy)

theorem State.reservedCommand_of_busy {s : State} (hbusy : resting s.regs.st = false) :
    s.reservedCommand = s :=
  if_neg (ne_true_of_eq_false hbusy)

/-- Settles O7: at rest both rows accept what is on the ports, and a busy block sees no command. -/
theorem commandRowAgreesWithStateRow : Obligations.CommandRowAgreesWithStateRow := by
  refine ⟨fun s hrest hstart => ?_, fun s t hbusy => ?_⟩
  · rw [exec_commandOf_eq_acceptPorts s hstart, exec_operationOf_resting hrest]
  · have hdecode f := State.decodeCommand_of_busy hbusy f t
    exact ⟨congrArg _ (hdecode .type11), congrArg _ (hdecode .type21), congrArg _ (hdecode .type22),
      congrArg _ (State.reservedCommand_of_busy hbusy)⟩

end Sys2Proof.Machine

/-! PROOFS. The law of the three waits (spec 41_handshake.md R95): a wait over its whole budget. -/

namespace Sys2Proof.Machine

/-- The operation of the state `st` is a wait for `level`: at a sample of that level the registers
become `arrive` of what they were, whatever the countdown is, and any other sample is a miss that counts
towards the error `k` (R92 to R95). -/
structure IsWait (st : St) (level : Level) (k : ErrorKind) (arrive : Regs → Regs) : Prop where
  busy       : resting st = false
  awaited    : ∀ s : State, s.sample = level →
    exec (operationOf st) s = .next (s.setRegs (arrive s.regs))
  missed     : ∀ s : State, s.sample = !level →
    exec (operationOf st) s = .next (s.setRegs (s.regs.miss k))
  arrive_cnt : ∀ (r : Regs) (c : Count), arrive { r with cnt := c } = arrive r
  reloads    : ∀ r : Regs, (arrive r).cnt.toNat = r.T.toNat

theorem isWait_awaitSensorLow : IsWait .awaitSensorLow false .connect
    fun r => { r with cnt := r.budget, st := .awaitAckHigh } where
  busy := rfl
  awaited s h := by
    rw [operationOf, exec, execAwaitSensorLow, h, Regs.await_awaited]
  missed _ h := exec_awaitSensorLow_high h
  arrive_cnt _ _ := rfl
  reloads := Regs.budget_toNat

theorem isWait_awaitAckHigh : IsWait .awaitAckHigh true .ackLow
    fun r => { r with cnt := r.budget, st := .awaitAckLow } where
  busy := rfl
  awaited s h := by
    rw [operationOf, exec, execAwaitAckHigh, h, Regs.await_awaited]
  missed _ h := exec_awaitAckHigh_low h
  arrive_cnt _ _ := rfl
  reloads := Regs.budget_toNat

theorem isWait_awaitAckLow : IsWait .awaitAckLow false .ackHigh
    fun r => { r with cnt := r.budget, prev := false, st := .bitLoop } where
  busy := rfl
  awaited s h := by
    rw [operationOf, exec, execAwaitAckLow, h]
    rfl
  missed _ h := exec_awaitAckLow_high h
  arrive_cnt _ _ := rfl
  reloads := Regs.budget_toNat

section Wait
variable {st : St} {level : Level} {k : ErrorKind} {arrive : Regs → Regs}
  (hwait : IsWait st level k arrive)
include hwait

theorem IsWait.step_awaited {s : State} (hst : s.regs.st = st) (hrst : s.now.rst = false)
    (hsample : s.sample = level) : step s = .next (s.setRegs (arrive s.regs)).tick :=
  step_of_exec_next hrst (hst ▸ hwait.busy) (hst ▸ hwait.awaited s hsample)

theorem IsWait.step_missed {s : State} (hst : s.regs.st = st) (hrst : s.now.rst = false)
    (hsample : s.sample = !level) : step s = .next (s.setRegs (s.regs.miss k)).tick :=
  step_of_exec_next hrst (hst ▸ hwait.busy) (hst ▸ hwait.missed s hsample)

/-- A miss with more than one unit of budget left costs one unit and consumes one edge. -/
theorem IsWait.step_missed_of_more {s : State} (hst : s.regs.st = st) (hrst : s.now.rst = false)
    (hsample : s.sample = !level) (hmore : 1 < s.regs.cnt.toNat) :
    ∃ (t : State) (c : Count), step s = .next t ∧ t.regs = { s.regs with cnt := c } ∧
      c.toNat = s.regs.cnt.toNat - 1 ∧ ∀ i, t.env.inputAt i = s.env.inputAt (i + 1) := by
  have hstep := hwait.step_missed hst hrst hsample
  rw [Regs.miss_of_more hmore] at hstep
  exact ⟨_, _, hstep, rfl, BitVec.toNat_sub_of_le hmore.le, State.tick_inputAt _⟩

/-- A wait succeeds at the first sample of the awaited level that its budget pays for. -/
theorem IsWait.run_awaited {s : State} {j : Nat} (hst : s.regs.st = st) (hj : j < s.regs.cnt.toNat)
    (hrst : s.noResetFor s.regs.cnt.toNat) (hbefore : ∀ i, i < j → s.sampleAt i = !level)
    (hsample : s.sampleAt j = level) :
    ∃ s' : State, run (j + 1) s = .next s' ∧ s'.regs = arrive s.regs := by
  induction j generalizing s with
  | zero => exact ⟨_, run_succ 0 (hwait.step_awaited hst (hrst 0 hj) hsample), rfl⟩
  | succ j ih =>
    obtain ⟨t, c, hstep, hregs, hc, hinputs⟩ := hwait.step_missed_of_more hst (hrst 0 (by omega))
      (hbefore 0 (by omega)) (by omega)
    have hcnt : t.regs.cnt = c := congrArg Regs.cnt hregs
    have hsamples i : t.sampleAt i = s.sampleAt (i + 1) := congrArg Inputs.pinIn (hinputs i)
    obtain ⟨s', hrun, hregs'⟩ := ih (s := t) ((congrArg Regs.st hregs :).trans hst)
      (by rw [hcnt]; omega)
      (fun i hi => hinputs i ▸ hrst (i + 1) (by rw [hcnt] at hi; omega))
      (fun i hi => (hsamples i).trans (hbefore (i + 1) (by omega)))
      ((hsamples j).trans hsample)
    exact ⟨s', (run_succ _ hstep).trans hrun, by rw [hregs', hregs, hwait.arrive_cnt]⟩

/-- A wait whose budget pays for no sample of the awaited level raises its error at the last unit. -/
theorem IsWait.run_missed {s : State} {n : Nat} (hst : s.regs.st = st) (hn : s.regs.cnt.toNat = n + 1)
    (hrst : s.noResetFor (n + 1)) (hnone : ∀ i, i < n + 1 → s.sampleAt i = !level) :
    ∃ s' : State, run (n + 1) s = .next s' ∧
      s'.regs = { s.regs with st := .done, err := k, cnt := 0 } := by
  induction n generalizing s with
  | zero =>
    have hstep := hwait.step_missed hst (hrst 0 (by omega)) (hnone 0 (by omega))
    rw [Regs.miss_of_last hn] at hstep
    exact ⟨_, run_succ 0 hstep, rfl⟩
  | succ n ih =>
    obtain ⟨t, c, hstep, hregs, hc, hinputs⟩ := hwait.step_missed_of_more hst (hrst 0 (by omega))
      (hnone 0 (by omega)) (by omega)
    have hcnt : t.regs.cnt = c := congrArg Regs.cnt hregs
    obtain ⟨s', hrun, hregs'⟩ := ih (s := t) ((congrArg Regs.st hregs :).trans hst)
      (by rw [hcnt]; omega)
      (fun i hi => hinputs i ▸ hrst (i + 1) (by omega))
      (fun i hi => (congrArg Inputs.pinIn (hinputs i)).trans (hnone (i + 1) (by omega)))
    exact ⟨s', (run_succ _ hstep).trans hrun, by rw [hregs', hregs]⟩

/-- The law of a wait with `cnt` units of budget (R95). -/
theorem IsWait.law {s : State} (hst : s.regs.st = st) (hcnt : 1 ≤ s.regs.cnt.toNat)
    (hrst : s.noResetFor s.regs.cnt.toNat) :
    (∀ j, j < s.regs.cnt.toNat → (∀ i, i < j → s.sampleAt i = !level) → s.sampleAt j = level →
      ∃ s' : State, run (j + 1) s = .next s' ∧ s'.regs.cnt.toNat = s.regs.T.toNat ∧
        s'.regs = { arrive s.regs with cnt := s'.regs.cnt }) ∧
    ((∀ i, i < s.regs.cnt.toNat → s.sampleAt i = !level) →
      ∃ s' : State, run s.regs.cnt.toNat s = .next s' ∧
        s'.regs = { s.regs with st := .done, err := k, cnt := 0 }) := by
  refine ⟨fun j hj hbefore hsample => ?_, fun hnone => ?_⟩
  · obtain ⟨s', hrun, e⟩ := hwait.run_awaited hst hj hrst hbefore hsample
    exact ⟨s', hrun, e ▸ hwait.reloads s.regs, e ▸ rfl⟩
  · obtain ⟨n, hn⟩ := Nat.exists_eq_add_of_le' hcnt
    rw [hn] at hrst hnone ⊢
    exact hwait.run_missed hst hn hrst hnone

end Wait

/-- Settles O23: each of the three states is a wait. -/
theorem lawOfTheThreeWaits : Obligations.LawOfTheThreeWaits :=
  fun _ hcnt hrst => ⟨fun hst => isWait_awaitSensorLow.law hst hcnt hrst,
    fun hst => isWait_awaitAckHigh.law hst hcnt hrst, fun hst => isWait_awaitAckLow.law hst hcnt hrst⟩

end Sys2Proof.Machine

/-! PROOFS. The invariants of R37 (spec 10_state.md section 9): what they say of the reception of bits, what
they say of each state, and that every step keeps them. -/

namespace Sys2Proof.Machine

/-! ## Two parts of the invariants -/

/-- The items of R37 about the bits received so far and their calibration: items 3 to 8 but for `st`. -/
structure Regs.ReceptionInv (r : Regs) : Prop where
  bitidxMax    : r.bitidx.toNat ≤ 40
  shBound      : r.sh.toNat < 2 ^ r.bitInByte
  calibrated   : 1 ≤ r.bitidx.toNat →
    r.floor.toNat + 1 ≤ r.T.toNat ∧ r.margin.toNat = div4 (r.T.toNat - r.floor.toNat)
  uncalibrated : r.bitidx = 0 → r.floor = 0 ∧ r.margin = 0
  frameEmpty   : ∀ i v, r.byteIndex ≤ i → r.frame.get i = some v → v = 0
  leadingZeros : r.frame.b0.toNat < 2 ^ (8 - nlz r.fam)
  partialByte  : r.bitidx.toNat < 8 → r.sh.toNat < 2 ^ (r.bitidx.toNat - nlz r.fam)

/-- The items of R37 about the state the block is in, state by state. -/
abbrev Regs.StateInv (r : Regs) : Prop :=
  match r.st with
  | .idle => r.pinOe = false
  | .startPulse | .releaseLine => r.pinOe = true ∧ 1 ≤ r.T.toNat ∧ r.bitidx = 0
  | .awaitSensorLow => r.pinOe = false ∧ 1 ≤ r.T.toNat ∧ r.bitidx = 0 ∧
      1 ≤ r.cnt.toNat ∧ r.cnt.toNat ≤ 2 * r.T.toNat
  | .awaitAckHigh | .awaitAckLow => r.pinOe = false ∧ 1 ≤ r.T.toNat ∧ r.bitidx = 0 ∧
      1 ≤ r.cnt.toNat ∧ r.cnt.toNat ≤ r.T.toNat
  | .bitLoop => r.pinOe = false ∧ 1 ≤ r.T.toNat ∧ r.bitidx.toNat ≤ 39 ∧
      1 ≤ r.cnt.toNat ∧ r.cnt.toNat ≤ r.T.toNat ∧ (r.prev = true → r.cnt.toNat + 1 ≤ r.T.toNat)
  | .validate => r.pinOe = false ∧ 1 ≤ r.T.toNat ∧ r.bitidx.toNat = 40
  | .done => r.pinOe = false ∧ 1 ≤ r.T.toNat

theorem Regs.Inv.stateInv {r : Regs} (h : r.Inv) : r.StateInv := by
  have hline := h.lineDriven
  have hT := h.timeoutLegal
  have hbits := h.bitidxStart
  have hleft := h.budgetLeft
  have hmost := h.singleBudget
  unfold Regs.StateInv
  cases hst : r.st <;> simp only [hst] at hline hT hbits hleft hmost ⊢
  case idle => simpa using hline
  case startPulse | releaseLine => exact ⟨by simpa using hline, hT (by decide), hbits (by decide)⟩
  case awaitSensorLow =>
    exact ⟨by simpa using hline, hT (by decide), hbits (by decide), hleft rfl, h.doubleBudget hst⟩
  case awaitAckHigh | awaitAckLow =>
    exact ⟨by simpa using hline, hT (by decide), hbits (by decide), hleft rfl, hmost (by decide)⟩
  case bitLoop =>
    exact ⟨by simpa using hline, hT (by decide), h.bitidxLoop hst, hleft rfl, hmost (by decide),
      h.edgeBudget hst⟩
  case validate => exact ⟨by simpa using hline, hT (by decide), h.bitidxEnd hst⟩
  case done => exact ⟨by simpa using hline, hT (by decide)⟩

theorem Regs.Inv.receptionInv {r : Regs} (h : r.Inv) : r.ReceptionInv :=
  { h with }

/-- The two parts are all of the invariants. -/
theorem Regs.inv_of_parts {r : Regs} (hst : r.StateInv) (h : r.ReceptionInv) : r.Inv := by
  unfold Regs.StateInv at hst
  cases e : r.st <;> simp only [e] at hst
  all_goals exact { h with
    budgetLeft := by simp [e, polling, hst]
    doubleBudget := by simp [e, hst]
    singleBudget := by simp [e, hst]
    timeoutLegal := by simp [e, hst]
    bitidxLoop := by simp [e, hst]
    bitidxStart := by simp [e, hst]
    bitidxEnd := by simp [e, hst]
    lineDriven := by simp [e, hst]
    edgeBudget := by simp +contextual [e, hst] }

/-- What is received so far stands in seven registers, and the others may change. -/
theorem Regs.ReceptionInv.of_others {r : Regs} (h : r.ReceptionInv) (st : St) (cnt : Count)
    (prev : Level) (err : ErrorKind) (hum : Tenths) (tneg : Level) (tmag : Tenths) (pinOe : Level) :
    Regs.ReceptionInv { r with st := st, cnt := cnt, prev := prev, err := err, hum := hum,
                               tneg := tneg, tmag := tmag, pinOe := pinOe } :=
  { h with }

/-! ## Reset and an accepted command -/

theorem Frame.index_le_of_get {f : Frame} {i : Nat} {v : Byte} (h : f.get i = some v) : i ≤ 4 := by
  unfold Frame.get at h
  split at h
  case h_6 => cases h
  all_goals omega

theorem receptionInv_startColumn (f : Family) (t : Ticks) : (startColumn f t).ReceptionInv where
  bitidxMax := Nat.zero_le _
  shBound := Nat.two_pow_pos _
  calibrated h := absurd h (Nat.not_succ_le_zero 0)
  uncalibrated _ := ⟨rfl, rfl⟩
  frameEmpty i _ _ hget := Option.some.inj
    (hget.symm.trans (Regs.reset_frame_get i (Frame.index_le_of_get hget)))
  leadingZeros := Nat.two_pow_pos _
  partialByte _ := Nat.two_pow_pos _

theorem inv_startColumn (f : Family) {t : Ticks} (ht : t ≠ 0) : (startColumn f t).Inv :=
  Regs.inv_of_parts ⟨rfl, BitVec.toNat_pos_of_ne_zero ht, rfl⟩ (receptionInv_startColumn f t)

theorem inv_reset : Regs.reset.Inv :=
  Regs.inv_of_parts rfl ((receptionInv_startColumn .type11 0).of_others ..)

/-! ## The handshake -/

theorem Regs.Inv.holdPulse {r : Regs} (h : r.Inv) (hst : r.st = .startPulse) (delayDone : Level) :
    (r.holdPulse delayDone).Inv := by
  have hstate := h.stateInv
  simp only [Regs.StateInv, hst] at hstate
  cases delayDone with
  | true => exact Regs.inv_of_parts hstate (h.receptionInv.of_others ..)
  | false => rwa [Regs.holdPulse_of_not_done hst]

theorem Regs.Inv.release {r : Regs} (h : r.Inv) (hst : r.st = .releaseLine) : r.release.Inv := by
  have hstate := h.stateInv
  simp only [Regs.StateInv, hst] at hstate
  obtain ⟨-, hT, hbits⟩ := hstate
  refine Regs.inv_of_parts ⟨rfl, hT, hbits, ?_⟩ (h.receptionInv.of_others ..)
  change 1 ≤ r.doubleBudget.toNat ∧ r.doubleBudget.toNat ≤ 2 * r.T.toNat
  rw [Regs.doubleBudget_toNat]
  omega

/-- A unit of budget less, where more than one is left, suits every state, whatever sample is
remembered. -/
theorem Regs.StateInv.countdown {r : Regs} (h : r.StateInv) (hmore : 1 < r.cnt.toNat) (sample : Level) :
    Regs.StateInv { r with cnt := r.cnt - 1, prev := sample } := by
  have hcnt : (r.cnt - 1).toNat = r.cnt.toNat - 1 := BitVec.toNat_sub_of_le hmore.le
  unfold Regs.StateInv at h ⊢
  cases hst : r.st <;> simp only [hst, hcnt] at h ⊢
  case awaitSensorLow | awaitAckHigh | awaitAckLow =>
    obtain ⟨hpin, hT, hbits, -, hmost⟩ := h
    exact ⟨hpin, hT, hbits, by omega, by omega⟩
  case bitLoop =>
    obtain ⟨hpin, hT, hbits, -, hmost, -⟩ := h
    exact ⟨hpin, hT, hbits, by omega, by omega, fun _ => by omega⟩
  all_goals exact h

/-- In a polling state the line is released and the budget of the attempt is legal. -/
theorem Regs.Inv.of_polling {r : Regs} (h : r.Inv) (hpoll : polling r.st = true) :
    r.pinOe = false ∧ 1 ≤ r.T.toNat := by
  have hstate := h.stateInv
  unfold Regs.StateInv at hstate
  cases hst : r.st <;> simp only [hst, polling, Bool.false_eq_true] at hstate hpoll
  all_goals exact ⟨hstate.1, hstate.2.1⟩

/-- A miss of a polling state, whatever sample is remembered with it. -/
theorem Regs.Inv.miss_prev {r : Regs} (h : r.Inv) (hpoll : polling r.st = true) (k : ErrorKind)
    (sample : Level) : Regs.Inv { r.miss k with prev := sample } := by
  rcases r.miss_cases k with ⟨-, e⟩ | ⟨hlast, e⟩ <;> rw [e]
  · exact Regs.inv_of_parts (h.of_polling hpoll) (h.receptionInv.of_others ..)
  · have hleft := h.budgetLeft hpoll
    exact Regs.inv_of_parts (h.stateInv.countdown (by bv_omega) sample) (h.receptionInv.of_others ..)

theorem Regs.miss_prev_eq (r : Regs) (k : ErrorKind) : { r.miss k with prev := r.prev } = r.miss k := by
  rcases r.miss_cases k with ⟨-, e⟩ | ⟨-, e⟩ <;> rw [e]

theorem Regs.Inv.miss {r : Regs} (h : r.Inv) (hpoll : polling r.st = true) (k : ErrorKind) :
    (r.miss k).Inv :=
  r.miss_prev_eq k ▸ h.miss_prev hpoll k r.prev

/-- The budget an arrival or an edge reloads. -/
theorem Regs.budget_bounds {r : Regs} (hT : 1 ≤ r.T.toNat) :
    1 ≤ r.budget.toNat ∧ r.budget.toNat ≤ r.T.toNat := by
  rw [Regs.budget_toNat]
  exact ⟨hT, le_rfl⟩

/-- The first two waits lead to a wait with `cnt = T`. -/
theorem Regs.Inv.await {r : Regs} (h : r.Inv) (hst : r.st = .awaitSensorLow ∨ r.st = .awaitAckHigh)
    (level sample : Level) {next : St} (hnext : next = .awaitAckHigh ∨ next = .awaitAckLow)
    (k : ErrorKind) : (r.await level sample next k).Inv := by
  have hpoll : polling r.st = true := by rcases hst with e | e <;> rw [e] <;> rfl
  rcases r.await_cases level sample next k with ⟨-, e⟩ | ⟨-, e⟩ <;> rw [e]
  · obtain ⟨hpin, hT⟩ := h.of_polling hpoll
    have hbits := h.bitidxStart (by rcases hst with e | e <;> simp [e])
    have hbudget := Regs.budget_bounds hT
    refine Regs.inv_of_parts ?_ (h.receptionInv.of_others ..)
    rcases hnext with rfl | rfl <;> exact ⟨hpin, hT, hbits, hbudget⟩
  · exact h.miss hpoll k

theorem Regs.Inv.awaitFirstCell {r : Regs} (h : r.Inv) (hst : r.st = .awaitAckLow) (sample : Level) :
    (r.awaitFirstCell sample).Inv := by
  have hpoll : polling r.st = true := by rw [hst]; rfl
  rcases r.awaitFirstCell_cases sample with ⟨-, e⟩ | ⟨-, e⟩ <;> rw [e]
  · obtain ⟨hpin, hT⟩ := h.of_polling hpoll
    have hbits := h.bitidxStart (by simp [hst])
    obtain ⟨hleft, hmost⟩ := Regs.budget_bounds hT
    exact Regs.inv_of_parts ⟨hpin, hT, by simp [hbits], hleft, hmost, Bool.noConfusion⟩
      (h.receptionInv.of_others ..)
  · exact h.miss hpoll .ackHigh

/-! ## An edge of the bit loop -/

/-- While byte 0 is assembled, what the next bit makes of `sh` is below the bound of its length (R114). -/
theorem Regs.ReceptionInv.shifted {r : Regs} {b : Level} (h : r.ReceptionInv)
    (hcal : r.bitidx.toNat < nlz r.fam → b = false) (hbyte : r.bitidx.toNat < 8) :
    2 * r.sh.toNat + b.toNat < 2 ^ (r.bitidx.toNat + 1 - nlz r.fam) := by
  have hsh := h.partialByte hbyte
  by_cases hlt : r.bitidx.toNat < nlz r.fam
  · rw [Nat.sub_eq_zero_of_le hlt.le] at hsh
    have hzero : r.sh.toNat = 0 := by simpa using hsh
    rw [hcal hlt, hzero]
    exact Nat.two_pow_pos _
  · have hb := b.toNat_lt
    rw [Nat.sub_add_comm (not_lt.mp hlt), Nat.pow_succ]
    omega

theorem nlz_pos (f : Family) : 1 ≤ nlz f := by
  cases f <;> decide

section Edge
variable {r r' : Regs} {b : Level} (h : edgeWrites r r' b) (hinv : r.ReceptionInv)
include h hinv

/-- A bit more in `sh`, or an empty `sh` after a completed byte. -/
theorem edgeWrites.shBound : r'.sh.toNat < 2 ^ r'.bitInByte := by
  have hbits := h.bitidx
  by_cases hlast : r.bitidx.toNat % 8 = 7
  · rw [(h.byteStored hlast).1]
    exact Nat.two_pow_pos _
  · have hnext : r'.bitInByte = r.bitInByte + 1 := by simp only [Regs.bitInByte]; omega
    have hsh := hinv.shBound
    have hb := b.toNat_lt
    rw [(h.bitShifted hlast).1, hnext, Nat.pow_succ]
    omega

/-- The bytes above the one being filled stay empty. -/
theorem edgeWrites.frameEmpty (i : Nat) (v : Byte) (hi : r'.byteIndex ≤ i)
    (hget : r'.frame.get i = some v) : v = 0 := by
  have hbits := h.bitidx
  have hle : r.byteIndex ≤ i := by simp only [Regs.byteIndex] at hi ⊢; omega
  by_cases hlast : r.bitidx.toNat % 8 = 7
  · have hne : i ≠ r.bitidx.toNat / 8 := by simp only [Regs.byteIndex] at hi; omega
    exact hinv.frameEmpty i v hle ((h.byteStored hlast).2.2 i hne ▸ hget)
  · exact hinv.frameEmpty i v hle ((h.bitShifted hlast).2 ▸ hget)

/-- Byte 0 keeps its leading zeros: it is written once, with the calibration bits uppermost. -/
theorem edgeWrites.leadingZeros (hcal : r.bitidx.toNat < nlz r.fam → b = false) :
    r'.frame.b0.toNat < 2 ^ (8 - nlz r.fam) := by
  by_cases hlast : r.bitidx.toNat % 8 = 7
  · obtain ⟨-, ⟨v, hget, hv⟩, hothers⟩ := h.byteStored hlast
    by_cases hbyte : r.bitidx.toNat / 8 = 0
    · have hbits : r.bitidx.toNat = 7 := by omega
      rw [hbyte] at hget
      have hb0 : r'.frame.b0 = v := Option.some.inj hget
      have hshifted := hinv.shifted hcal (by omega)
      rw [hbits] at hshifted
      rw [hb0, hv]
      exact (Nat.mod_le _ _).trans_lt hshifted
    · have hb0 : r'.frame.b0 = r.frame.b0 := Option.some.inj (hothers 0 (Ne.symm hbyte))
      exact hb0 ▸ hinv.leadingZeros
  · exact (h.bitShifted hlast).2 ▸ hinv.leadingZeros

end Edge

/-- What an edge does to `floor` and `margin` keeps item 6 (R113, R115). -/
theorem Regs.Inv.endCell_calibrated {r : Regs} (h : r.Inv) (hst : r.st = .bitLoop)
    (hprev : r.prev = true) : r.endCell.floor.toNat + 1 ≤ r.T.toNat ∧
      r.endCell.margin.toNat = div4 (r.T.toNat - r.endCell.floor.toNat) := by
  by_cases hcal : r.bitidx.toNat < nlz r.fam
  · have hcnt := h.edgeBudget hst hprev
    have hfloor : r.floor.toNat + 1 ≤ r.T.toNat := by
      by_cases hfirst : r.bitidx = 0
      · rw [(h.uncalibrated hfirst).1]
        exact h.timeoutLegal (by simp [hst])
      · exact (h.calibrated (BitVec.toNat_pos_of_ne_zero hfirst)).1
    obtain ⟨hf, hm⟩ := Regs.endCell_calibrates hcal (by omega)
    rw [hm, hf]
    exact ⟨by omega, rfl⟩
  · have hdata := not_lt.mp hcal
    have hsome : 1 ≤ r.bitidx.toNat := (nlz_pos r.fam).trans hdata
    obtain ⟨hf, hm⟩ := Regs.endCell_keeps_calibration hdata
    rw [hf, hm]
    exact h.calibrated hsome

/-- An edge keeps the invariants. -/
theorem Regs.Inv.endCell {r : Regs} (h : r.Inv) (hst : r.st = .bitLoop) (hprev : r.prev = true) :
    Regs.Inv { r.endCell with prev := false } := by
  have hbits := h.bitidxLoop hst
  have hwrites := Regs.edgeWrites_endCell hbits
  obtain ⟨hfam, hT, -, -, -, -, -, hpin⟩ := r.endCell_frame
  have hnext : r.endCell.bitidx.toNat = r.bitidx.toNat + 1 := hwrites.bitidx
  have hrec := h.receptionInv
  have hcal : r.bitidx.toNat < nlz r.fam → r.receivedBit = false := fun hlt =>
    Bool.eq_false_iff.mpr fun hone => hlt.not_ge (r.receivedBit_iff.mp hone).1
  refine Regs.inv_of_parts ?_
    { bitidxMax := hnext.trans_le (by omega)
      shBound := hwrites.shBound hrec
      calibrated := fun _ => hT ▸ h.endCell_calibrated hst hprev
      uncalibrated := fun hzero => absurd hnext (by rw [hzero]; exact Nat.zero_ne_add_one _)
      frameEmpty := hwrites.frameEmpty hrec
      leadingZeros := hfam ▸ hwrites.leadingZeros hrec hcal
      partialByte := fun hbyte => ?_ }
  · obtain ⟨hline, hlegal⟩ := h.of_polling (by rw [hst]; rfl)
    obtain ⟨hleft, hmost⟩ := Regs.budget_bounds hlegal
    have hst' := r.endCell_st
    by_cases hend : r.bitidx.toNat = 39
    · rw [if_pos hend] at hst'
      simp only [Regs.StateInv, hst']
      exact ⟨hpin.trans hline, hT ▸ hlegal, by omega⟩
    · rw [if_neg hend, hst] at hst'
      simp only [Regs.StateInv, hst', hT]
      exact ⟨hpin.trans hline, hlegal, by omega, hleft, hmost, Bool.noConfusion⟩
  · have hlt : r.bitidx.toNat < 7 := by
      change r.endCell.bitidx.toNat < 8 at hbyte
      omega
    obtain ⟨hsh, -⟩ := hwrites.bitShifted (by omega)
    rw [hsh]
    change _ < 2 ^ (r.endCell.bitidx.toNat - nlz r.endCell.fam)
    rw [hnext, hfam]
    exact (Nat.mod_le _ _).trans_lt (hrec.shifted hcal (by omega))

theorem Regs.Inv.bitTick {r : Regs} (h : r.Inv) (hst : r.st = .bitLoop) (sample : Level) :
    (r.bitTick sample).Inv := by
  by_cases hedge : r.prev = true ∧ sample = false
  · obtain ⟨hprev, rfl⟩ := hedge
    exact Regs.bitTick_edge hprev ▸ h.endCell hst hprev
  · exact Regs.bitTick_no_edge hedge ▸ h.miss_prev (by rw [hst]; rfl) .timeout sample

/-! ## Validation -/

theorem Regs.Inv.decodeFields_raise {r : Regs} (h : r.Inv) (hst : r.st = .validate) (k : ErrorKind) :
    (r.decodeFields.raise k).Inv := by
  have hstate := h.stateInv
  simp only [Regs.StateInv, hst] at hstate
  obtain ⟨hpin, hT, -⟩ := hstate
  rw [Regs.decodeFields_raise]
  exact Regs.inv_of_parts ⟨hpin, hT⟩ (h.receptionInv.of_others ..)

/-! ## The step -/

/-- A block at rest keeps the invariants, whatever is on the ports. -/
theorem State.acceptPorts_inv {s : State} (h : s.Inv) (hrest : resting s.regs.st = true) :
    s.acceptPorts.Inv := by
  rcases s.acceptPorts_cases hrest with ⟨-, e⟩ | ⟨-, -, e⟩ | ⟨f, -, -, ht, e⟩ <;> rw [e]
  · exact h
  · exact h
  · exact inv_startColumn f ht

/-- Settles O44: of the operations a step may run, each keeps the invariants in its own state. -/
theorem everyStepKeepsTheInvariants : Obligations.EveryStepKeepsTheInvariants := by
  intro s s' h hstep
  rcases step_cases hstep with ⟨-, rfl⟩ | ⟨-, hrest, rfl⟩ | ⟨-, hst, rfl⟩ | ⟨-, hst, rfl⟩ |
    ⟨-, hst, rfl⟩ | ⟨-, hst, rfl⟩ | ⟨-, hst, rfl⟩ | ⟨-, hst, -, rfl⟩ | ⟨-, hst, rfl⟩
  · exact inv_reset
  · exact State.acceptPorts_inv h hrest
  · exact h.holdPulse hst _
  · exact h.release hst
  · exact h.await (.inl hst) _ _ (.inl rfl) _
  · exact h.await (.inr hst) _ _ (.inr rfl) _
  · exact h.awaitFirstCell hst _
  · exact h.bitTick hst _
  · exact h.decodeFields_raise hst _

end Sys2Proof.Machine

/-! PROOFS. Under the invariants of R37 no step stops, and the next state is that of the transition table
(spec 60_exceptions.md R168). -/

namespace Sys2Proof.Machine

/-- Settles O47: only `BIT_LOOP` can stop, and under R37 it does not. -/
theorem noStepStopsUnderTheInvariants : Obligations.NoStepStopsUnderTheInvariants := by
  intro s h
  cases hrst : s.now.rst with
  | true => exact ⟨_, step_reset s hrst⟩
  | false =>
    cases hst : s.regs.st with
    | idle | done => exact ⟨_, step_resting s hrst (by rw [hst]; rfl)⟩
    | bitLoop => exact ⟨_, step_bitLoop hrst hst fun _ =>
        Regs.byteIndex_le_of_bitidx (h.bitidxLoop hst)⟩
    | _ => exact ⟨_, step_of_exec_next hrst (by rw [hst]; rfl) (by rw [hst]; rfl)⟩

/-! ## The state after each operation -/

theorem Regs.miss_st (r : Regs) (k : ErrorKind) :
    (r.miss k).st = if r.cnt.toNat = 1 then .done else r.st := by
  have hlast : r.cnt.toNat = 1 ↔ r.cnt = 1 := BitVec.toNat_inj (y := 1)
  rcases r.miss_cases k with ⟨h, e⟩ | ⟨h, e⟩
  · rw [if_pos (hlast.mpr h), e]
  · rw [if_neg (hlast.not.mpr h), e]

theorem Regs.await_st (r : Regs) (level sample : Level) (next : St) (k : ErrorKind) :
    (r.await level sample next k).st =
      if sample = level then next else if r.cnt.toNat = 1 then .done else r.st := by
  rcases r.await_cases level sample next k with ⟨h, e⟩ | ⟨h, e⟩
  · rw [if_pos h, e]
  · rw [if_neg h, e, Regs.miss_st]

theorem Regs.awaitFirstCell_st (r : Regs) (sample : Level) :
    (r.awaitFirstCell sample).st =
      if sample = false then .bitLoop else if r.cnt.toNat = 1 then .done else r.st := by
  rcases r.awaitFirstCell_cases sample with ⟨h, e⟩ | ⟨h, e⟩
  · rw [if_pos h, e]
  · rw [if_neg (by simp [h]), e, Regs.miss_st]

theorem Regs.bitTick_st (r : Regs) (sample : Level) :
    (r.bitTick sample).st = if r.prev = true ∧ sample = false then
      if r.bitidx.toNat = 39 then .validate else r.st
      else if r.cnt.toNat = 1 then .done else r.st := by
  by_cases h : r.prev = true ∧ sample = false
  · obtain ⟨hprev, rfl⟩ := h
    rw [if_pos ⟨hprev, rfl⟩, Regs.bitTick_edge hprev]
    exact r.endCell_st
  · rw [if_neg h, Regs.bitTick_no_edge h]
    exact r.miss_st .timeout

theorem transition_of_resting {s : State} (hrest : resting s.regs.st = true) :
    transition s = if legalCommand s.now then .startPulse else s.regs.st := by
  rcases (resting_iff _).mp hrest with hst | hst <;> simp only [transition, hst]

theorem State.acceptPorts_st {s : State} (hrest : resting s.regs.st = true) :
    s.acceptPorts.regs.st = if legalCommand s.now then .startPulse else s.regs.st := by
  rcases s.acceptPorts_legalCommand hrest with ⟨hcmd, f, -, e⟩ | ⟨hcmd, e⟩ <;> rw [hcmd, e] <;> rfl

/-- Where a step without reset answers a next state, it is in the table's state. -/
theorem step_st {s s' : State} (hrst : s.now.rst = false) (h : step s = .next s') :
    s'.regs.st = transition s := by
  rcases step_cases h with ⟨hreset, -⟩ | ⟨-, hrest, rfl⟩ | ⟨-, hst, rfl⟩ | ⟨-, hst, rfl⟩ |
    ⟨-, hst, rfl⟩ | ⟨-, hst, rfl⟩ | ⟨-, hst, rfl⟩ | ⟨-, hst, -, rfl⟩ | ⟨-, hst, rfl⟩
  · simp [hrst] at hreset
  · rw [State.tick_regs, State.acceptPorts_st hrest, transition_of_resting hrest]
  all_goals simp only [transition, hst, State.tick_regs, State.setRegs_regs]
  · cases s.now.delayDone <;> rfl
  · rfl
  · rw [Regs.await_st, hst]
    rfl
  · rw [Regs.await_st, hst]
    rfl
  · rw [Regs.awaitFirstCell_st, hst]
    rfl
  · rw [Regs.bitTick_st, hst]
    rfl
  · rfl

/-- Settles O42: under R37 the step answers a next state, and that is in the table's state. -/
theorem transitionTable : Obligations.TransitionTable := by
  intro s h hrst
  obtain ⟨s', hstep⟩ := noStepStopsUnderTheInvariants s h
  exact ⟨s', hstep, step_st hrst hstep⟩

end Sys2Proof.Machine

/-! PROOFS. What an outcome says of the registers behind it (spec 60_exceptions.md R150 to R155), kept by
every step. -/

namespace Sys2Proof.Machine

/-- The registers of the result before an attempt has ended: no outcome and no reading (R20, R24 to
R26). -/
structure Regs.NoResult (r : Regs) : Prop where
  err  : r.err = .ok
  hum  : r.hum = 0
  tneg : r.tneg = false
  tmag : r.tmag = 0

theorem Regs.OutcomeInv.noResult {r : Regs} (h : r.OutcomeInv) (hst : r.st ≠ .done) : r.NoResult := by
  obtain ⟨hhum, htneg, htmag⟩ := h.noReading hst
  exact ⟨h.okUntilDone hst, hhum, htneg, htmag⟩

/-- Before `DONE` the outcome says only that there is no result yet. -/
theorem Regs.NoResult.outcomeInv {r : Regs} (h : r.NoResult) (hst : r.st ≠ .done) : r.OutcomeInv where
  okUntilDone _ := h.err
  noReading _ := ⟨h.hum, h.tneg, h.tmag⟩
  okFrame hdone := absurd hdone hst
  badFrame hdone := absurd hdone hst
  timedOut hdone := absurd hdone hst
  noHandshake hdone := absurd hdone hst
  reading hdone := absurd hdone hst
  undecoded hdone := absurd hdone hst

theorem noResult_startColumn (f : Family) (t : Ticks) : (startColumn f t).NoResult :=
  ⟨rfl, rfl, rfl, rfl⟩

theorem outcomeInv_reset : Regs.reset.OutcomeInv :=
  Regs.NoResult.outcomeInv ⟨rfl, rfl, rfl, rfl⟩ St.noConfusion

/-! ## The error exit of a polling state -/

/-- How many bits a timeout-class error admits: at most 39 for `Timeout`, none for the three handshake
errors (R151). -/
def Regs.BitsSuit (r : Regs) (k : ErrorKind) : Prop :=
  (k = .timeout ∧ r.bitidx.toNat ≤ 39) ∨
    ((k = .connect ∨ k = .ackLow ∨ k = .ackHigh) ∧ r.bitidx = 0)

/-- The error exit at the last unit of budget says what R151 and R155 ask of a timeout-class error. -/
theorem Regs.NoResult.outcomeInv_error {r : Regs} (h : r.NoResult) {k : ErrorKind}
    (hbits : r.BitsSuit k) (sample : Level) :
    Regs.OutcomeInv { r with cnt := 0, err := k, st := .done, prev := sample } where
  okUntilDone hst := absurd rfl hst
  noReading hst := absurd rfl hst
  okFrame _ hk := by
    obtain rfl : k = .ok := hk
    simp [Regs.BitsSuit] at hbits
  badFrame _ hk := by
    obtain rfl : k = .checksum := hk
    simp [Regs.BitsSuit] at hbits
  timedOut _ hk := by
    obtain rfl : k = .timeout := hk
    exact ⟨by simpa [Regs.BitsSuit] using hbits, rfl⟩
  noHandshake _ hk := by
    rcases hbits with ⟨rfl, -⟩ | ⟨-, hzero⟩
    · simp at hk
    · exact ⟨hzero, rfl⟩
  reading _ hk := by
    change k = .ok ∨ k = .checksum at hk
    rcases hk with rfl | rfl <;> simp [Regs.BitsSuit] at hbits
  undecoded _ _ := ⟨h.hum, h.tneg, h.tmag⟩

theorem Regs.NoResult.outcomeInv_miss {r : Regs} (h : r.NoResult) (hst : r.st ≠ .done) {k : ErrorKind}
    (hbits : r.BitsSuit k) (sample : Level) : Regs.OutcomeInv { r.miss k with prev := sample } := by
  rcases r.miss_cases k with ⟨-, e⟩ | ⟨-, e⟩ <;> rw [e]
  · exact h.outcomeInv_error hbits sample
  · exact Regs.NoResult.outcomeInv ⟨h.err, h.hum, h.tneg, h.tmag⟩ hst

/-! ## The operations of a busy block -/

theorem Regs.NoResult.holdPulse {r : Regs} (h : r.NoResult) (delayDone : Level) :
    (r.holdPulse delayDone).OutcomeInv := by
  refine Regs.NoResult.outcomeInv ?_ (r.holdPulse_st_ne_done delayDone)
  cases delayDone <;> exact ⟨h.err, h.hum, h.tneg, h.tmag⟩

theorem Regs.NoResult.release {r : Regs} (h : r.NoResult) : r.release.OutcomeInv :=
  Regs.NoResult.outcomeInv ⟨h.err, h.hum, h.tneg, h.tmag⟩ St.noConfusion

theorem Regs.NoResult.await {r : Regs} (h : r.NoResult) (hst : r.st ≠ .done) (level sample : Level)
    {next : St} (hnext : next ≠ .done) {k : ErrorKind} (hbits : r.BitsSuit k) :
    (r.await level sample next k).OutcomeInv := by
  rcases r.await_cases level sample next k with ⟨-, e⟩ | ⟨-, e⟩ <;> rw [e]
  · exact Regs.NoResult.outcomeInv ⟨h.err, h.hum, h.tneg, h.tmag⟩ hnext
  · exact r.miss_prev_eq k ▸ h.outcomeInv_miss hst hbits r.prev

theorem Regs.NoResult.awaitFirstCell {r : Regs} (h : r.NoResult) (hst : r.st ≠ .done)
    (hbits : r.bitidx = 0) (sample : Level) : (r.awaitFirstCell sample).OutcomeInv := by
  rcases r.awaitFirstCell_cases sample with ⟨-, e⟩ | ⟨-, e⟩ <;> rw [e]
  · exact Regs.NoResult.outcomeInv ⟨h.err, h.hum, h.tneg, h.tmag⟩ St.noConfusion
  · exact r.miss_prev_eq .ackHigh ▸
      h.outcomeInv_miss hst (.inr ⟨.inr (.inr rfl), hbits⟩) r.prev

theorem Regs.NoResult.bitTick {r : Regs} (h : r.NoResult) (hst : r.st ≠ .done)
    (hbits : r.bitidx.toNat ≤ 39) (sample : Level) : (r.bitTick sample).OutcomeInv := by
  by_cases hedge : r.prev = true ∧ sample = false
  · obtain ⟨hprev, rfl⟩ := hedge
    obtain ⟨-, -, -, herr, hhum, htneg, htmag, -⟩ := r.endCell_frame
    rw [Regs.bitTick_edge hprev]
    exact Regs.NoResult.outcomeInv
      ⟨herr.trans h.err, hhum.trans h.hum, htneg.trans h.tneg, htmag.trans h.tmag⟩
      (Regs.endCell_st_ne_done hst)
  · rw [Regs.bitTick_no_edge hedge]
    exact h.outcomeInv_miss hst (.inl ⟨rfl, hbits⟩) sample

theorem Frame.verdict_eq_ok (f : Frame) : f.verdict = .ok ↔ f.checksumOk = true := by
  unfold Frame.verdict
  split <;> simp [*]

theorem Frame.verdict_eq_checksum (f : Frame) : f.verdict = .checksum ↔ f.checksumOk = false := by
  unfold Frame.verdict
  split <;> simp [*]

/-- The verdict is no timeout-class error (R131). -/
theorem Frame.verdict_ne_of_timeoutClass (f : Frame) {k : ErrorKind} (h : timeoutClass k = true) :
    f.verdict ≠ k := by
  rintro rfl
  rcases f.verdict_ok_or_checksum with e | e <;> rw [e] at h <;> exact Bool.noConfusion h

/-- The decoder reads the family and the frame, nothing else (R134 to R136). -/
theorem Regs.decodeFields_congr {r q : Regs} (hfam : q.fam = r.fam) (hframe : q.frame = r.frame) :
    q.decodeFields.hum = r.decodeFields.hum ∧ q.decodeFields.tneg = r.decodeFields.tneg ∧
    q.decodeFields.tmag = r.decodeFields.tmag := by
  unfold Regs.decodeFields
  rw [hfam]
  cases r.fam <;> simp [Regs.decode11, Regs.decode2x, hframe]

/-- `VALIDATE` after 40 bits: the verdict is that of the checksum, and the reading the decoder's. -/
theorem Regs.outcomeInv_validated {r : Regs} (hbits : r.bitidx.toNat = 40) :
    (r.decodeFields.raise r.frame.verdict).OutcomeInv := by
  have hno {k : ErrorKind} (hk : timeoutClass k = true) := r.frame.verdict_ne_of_timeoutClass hk
  rw [Regs.decodeFields_raise]
  exact {
    okUntilDone := fun hst => absurd rfl hst
    noReading := fun hst => absurd rfl hst
    okFrame := fun _ hk => ⟨hbits, r.frame.verdict_eq_ok.mp hk⟩
    badFrame := fun _ hk => ⟨hbits, r.frame.verdict_eq_checksum.mp hk⟩
    timedOut := fun _ hk => absurd hk (hno rfl)
    noHandshake := fun _ hk => by
      rcases hk with hk | hk | hk <;> exact absurd hk (hno rfl)
    reading := fun _ _ => Regs.decodeFields_congr rfl rfl
    undecoded := fun _ hk => absurd rfl (hno hk) }

/-! ## The step -/

/-- A block at rest keeps what its outcome says, or starts an attempt without a result. -/
theorem State.acceptPorts_outcomeInv {s : State} (h : s.regs.OutcomeInv)
    (hrest : resting s.regs.st = true) : s.acceptPorts.regs.OutcomeInv := by
  rcases s.acceptPorts_legalCommand hrest with ⟨-, f, -, e⟩ | ⟨-, e⟩ <;> rw [e]
  · exact (noResult_startColumn f _).outcomeInv St.noConfusion
  · exact h

/-- Settles O45: a busy block has no result, and each operation keeps it so or enters `DONE` with an
outcome that its state admits. -/
theorem everyStepKeepsWhatOutcomesSay : Obligations.EveryStepKeepsWhatOutcomesSay := by
  rintro s s' ⟨hinv, hout⟩ hstep
  refine ⟨everyStepKeepsTheInvariants s s' hinv hstep, ?_⟩
  have hres {st : St} (hst : s.regs.st = st) (hne : st ≠ .done) : s.regs.NoResult :=
    hout.noResult (hst ▸ hne)
  rcases step_cases hstep with ⟨-, rfl⟩ | ⟨-, hrest, rfl⟩ | ⟨-, hst, rfl⟩ | ⟨-, hst, rfl⟩ |
    ⟨-, hst, rfl⟩ | ⟨-, hst, rfl⟩ | ⟨-, hst, rfl⟩ | ⟨-, hst, -, rfl⟩ | ⟨-, hst, rfl⟩
  · exact outcomeInv_reset
  · exact State.acceptPorts_outcomeInv hout hrest
  · exact (hres hst St.noConfusion).holdPulse _
  · exact (hres hst St.noConfusion).release
  · exact (hres hst St.noConfusion).await (by simp [hst]) _ _ St.noConfusion
      (.inr ⟨.inl rfl, hinv.bitidxStart (by simp [hst])⟩)
  · exact (hres hst St.noConfusion).await (by simp [hst]) _ _ St.noConfusion
      (.inr ⟨.inr (.inl rfl), hinv.bitidxStart (by simp [hst])⟩)
  · exact (hres hst St.noConfusion).awaitFirstCell (by simp [hst])
      (hinv.bitidxStart (by simp [hst])) _
  · exact (hres hst St.noConfusion).bitTick (by simp [hst]) (hinv.bitidxLoop hst) _
  · exact Regs.outcomeInv_validated (hinv.bitidxEnd hst)

/-- Settles O46: the reset column meets R37 and holds no result. -/
theorem resetMeetsTheInvariants : Obligations.ResetMeetsTheInvariants :=
  ⟨inv_reset, outcomeInv_reset⟩

/-! ## The result ports after a timeout-class error (U1) -/

/-- Settles O49: each of the four ports is a result port. -/
theorem resultPortsAbsentAfterTimeoutClassError :
    Obligations.ResultPortsAbsentAfterTimeoutClassError := by
  intro r hst herr
  have habsent {α : Type} (v : α) : r.resultPort v = none :=
    Regs.resultPort_eq_none v hst ((timeoutClass_iff _).mpr herr)
  exact ⟨habsent _, habsent _, habsent _, habsent _⟩

end Sys2Proof.Machine

/-! PROOFS. Every attempt ends (spec 60_exceptions.md R170): a bound on the clock edges left, which every
step lowers. -/

namespace Sys2Proof.Machine

/-- From the state `st` an attempt goes on to `DONE` by the line's samples alone: all but `IDLE` and
`START_PULSE`, which wait for the host and for the delay collaborator. -/
def endsByItself : St → Bool
  | .idle | .startPulse => false
  | .releaseLine | .awaitSensorLow | .awaitAckHigh | .awaitAckLow | .bitLoop | .validate
  | .done => true

/-- The most clock edges such a state may take to `DONE`: the countdown it has, and the whole budget of
every wait and of every cell after it (R170). -/
def Regs.edgesLeft (r : Regs) : Nat :=
  match r.st with
  | .releaseLine => 1 + 4 * r.T.toNat + 40 * r.T.toNat + 1
  | .awaitSensorLow => r.cnt.toNat + 2 * r.T.toNat + 40 * r.T.toNat + 1
  | .awaitAckHigh => r.cnt.toNat + r.T.toNat + 40 * r.T.toNat + 1
  | .awaitAckLow => r.cnt.toNat + 40 * r.T.toNat + 1
  | .bitLoop => r.cnt.toNat + (39 - r.bitidx.toNat) * r.T.toNat + 1
  | .validate => 1
  | .done | .idle | .startPulse => 0

theorem Regs.st_of_edgesLeft_eq_zero {r : Regs} (hends : endsByItself r.st = true)
    (h : r.edgesLeft = 0) : r.st = .done := by
  unfold Regs.edgesLeft at h
  cases hst : r.st <;> simp only [hst, endsByItself, Bool.false_eq_true] at hends h
  case done => rfl
  all_goals omega

theorem Regs.edgesLeft_miss {r : Regs} (hpoll : polling r.st = true) (hleft : 1 ≤ r.cnt.toNat)
    (k : ErrorKind) : (r.miss k).edgesLeft < r.edgesLeft := by
  have hcnt : (r.cnt - 1).toNat = r.cnt.toNat - 1 := BitVec.toNat_sub_of_le hleft
  unfold Regs.edgesLeft
  rcases r.miss_cases k with ⟨-, e⟩ | ⟨-, e⟩ <;> rw [e] <;>
    cases hst : r.st <;> simp only [hst, polling, hcnt, Bool.false_eq_true] at hpoll ⊢
  all_goals omega

theorem Regs.edgesLeft_endCell {r : Regs} (hst : r.st = .bitLoop) (hbits : r.bitidx.toNat ≤ 39)
    (hleft : 1 ≤ r.cnt.toNat) : Regs.edgesLeft { r.endCell with prev := false } < r.edgesLeft := by
  obtain ⟨-, hT, -⟩ := r.endCell_frame
  have hwrites := Regs.edgeWrites_endCell hbits
  have hcnt : r.endCell.cnt.toNat = r.T.toNat := hwrites.cnt
  have hnext : r.endCell.bitidx.toNat = r.bitidx.toNat + 1 := hwrites.bitidx
  have hst' := r.endCell_st
  by_cases hend : r.bitidx.toNat = 39
  · rw [if_pos hend] at hst'
    simp only [Regs.edgesLeft, hst', hst]
    omega
  · rw [if_neg hend, hst] at hst'
    have hcells : (39 - r.bitidx.toNat) * r.T.toNat =
        (39 - (r.bitidx.toNat + 1)) * r.T.toNat + r.T.toNat := by
      rw [← Nat.succ_mul]
      congr 1
      omega
    simp only [Regs.edgesLeft, hst', hst, hcnt, hnext, hT]
    omega

theorem Regs.edgesLeft_bitTick {r : Regs} (hst : r.st = .bitLoop) (hbits : r.bitidx.toNat ≤ 39)
    (hleft : 1 ≤ r.cnt.toNat) (sample : Level) : (r.bitTick sample).edgesLeft < r.edgesLeft := by
  by_cases hedge : r.prev = true ∧ sample = false
  · obtain ⟨hprev, rfl⟩ := hedge
    exact Regs.bitTick_edge hprev ▸ Regs.edgesLeft_endCell hst hbits hleft
  · exact Regs.bitTick_no_edge hedge ▸ Regs.edgesLeft_miss (by rw [hst]; rfl) hleft .timeout

/-- A tick of a wait lowers the bound when its arrival does. -/
theorem Regs.edgesLeft_await {r : Regs} (hpoll : polling r.st = true) (hleft : 1 ≤ r.cnt.toNat)
    {next : St} (harrive : Regs.edgesLeft { r with cnt := r.budget, st := next } < r.edgesLeft)
    (level sample : Level) (k : ErrorKind) :
    (r.await level sample next k).edgesLeft < r.edgesLeft := by
  rcases r.await_cases level sample next k with ⟨-, e⟩ | ⟨-, e⟩ <;> rw [e]
  · exact harrive
  · exact Regs.edgesLeft_miss hpoll hleft k

theorem Regs.edgesLeft_awaitSensorLow {r : Regs} (hst : r.st = .awaitSensorLow)
    (hleft : 1 ≤ r.cnt.toNat) (sample : Level) :
    (r.await false sample .awaitAckHigh .connect).edgesLeft < r.edgesLeft := by
  refine Regs.edgesLeft_await (by rw [hst]; rfl) hleft ?_ ..
  simp only [Regs.edgesLeft, hst, Regs.budget_toNat]
  omega

theorem Regs.edgesLeft_awaitAckHigh {r : Regs} (hst : r.st = .awaitAckHigh)
    (hleft : 1 ≤ r.cnt.toNat) (sample : Level) :
    (r.await true sample .awaitAckLow .ackLow).edgesLeft < r.edgesLeft := by
  refine Regs.edgesLeft_await (by rw [hst]; rfl) hleft ?_ ..
  simp only [Regs.edgesLeft, hst, Regs.budget_toNat]
  omega

/-- The arrival in the bit loop, with no bit received, leaves a whole budget for each of 40 cells. -/
theorem Regs.edgesLeft_awaitFirstCell {r : Regs} (hst : r.st = .awaitAckLow) (hbits : r.bitidx = 0)
    (hleft : 1 ≤ r.cnt.toNat) (sample : Level) : (r.awaitFirstCell sample).edgesLeft < r.edgesLeft := by
  rcases r.awaitFirstCell_cases sample with ⟨-, e⟩ | ⟨-, e⟩ <;> rw [e]
  · have hzero : r.bitidx.toNat = 0 := congrArg BitVec.toNat hbits
    simp only [Regs.edgesLeft, hst, hzero, Regs.budget_toNat]
    omega
  · exact Regs.edgesLeft_miss (by rw [hst]; rfl) hleft .ackHigh

theorem transition_endsByItself {s : State} (hends : endsByItself s.regs.st = true)
    (hne : s.regs.st ≠ .done) : endsByItself (transition s) = true := by
  unfold transition
  cases hst : s.regs.st with
  | idle | startPulse => simp [hst, endsByItself] at hends
  | done => exact absurd hst hne
  | releaseLine | validate => rfl
  | awaitSensorLow | awaitAckHigh | awaitAckLow | bitLoop => dsimp only; split_ifs <;> rfl

/-- Every step without reset of an attempt that ends by itself lowers the bound. -/
theorem step_edgesLeft {s s' : State} (hinv : s.Inv) (hrst : s.now.rst = false)
    (hends : endsByItself s.regs.st = true) (hne : s.regs.st ≠ .done) (h : step s = .next s') :
    s'.regs.edgesLeft < s.regs.edgesLeft := by
  have hleft {st : St} (hst : s.regs.st = st) (hpoll : polling st = true) : 1 ≤ s.regs.cnt.toNat :=
    hinv.budgetLeft (hst ▸ hpoll)
  rcases step_cases h with ⟨hreset, -⟩ | ⟨-, hrest, rfl⟩ | ⟨-, hst, rfl⟩ | ⟨-, hst, rfl⟩ |
    ⟨-, hst, rfl⟩ | ⟨-, hst, rfl⟩ | ⟨-, hst, rfl⟩ | ⟨-, hst, -, rfl⟩ | ⟨-, hst, rfl⟩
  · simp [hrst] at hreset
  · rcases (resting_iff _).mp hrest with hst | hst
    · simp [hst, endsByItself] at hends
    · exact absurd hst hne
  · simp [hst, endsByItself] at hends
  · have hT := hinv.timeoutLegal (by simp [hst])
    simp only [State.tick_regs, State.setRegs_regs, Regs.edgesLeft, Regs.release, Regs.drive,
      Regs.doubleBudget_toNat, hst]
    omega
  · exact Regs.edgesLeft_awaitSensorLow hst (hleft hst rfl) _
  · exact Regs.edgesLeft_awaitAckHigh hst (hleft hst rfl) _
  · exact Regs.edgesLeft_awaitFirstCell hst (hinv.bitidxStart (by simp [hst])) (hleft hst rfl) _
  · exact Regs.edgesLeft_bitTick hst (hinv.bitidxLoop hst) (hleft hst rfl) _
  · simp only [State.tick_regs, State.setRegs_regs, Regs.edgesLeft, Regs.raise_st, hst]
    omega

/-- The levels `k` edges ahead of a step without reset are those `k + 1` edges ahead of it. -/
theorem step_inputAt {s s' : State} (hrst : s.now.rst = false) (h : step s = .next s') (k : Nat) :
    s'.env.inputAt k = s.env.inputAt (k + 1) := by
  rcases step_cases h with ⟨hreset, -⟩ | ⟨-, hrest, rfl⟩ | ⟨-, -, rfl⟩ | ⟨-, -, rfl⟩ | ⟨-, -, rfl⟩ |
    ⟨-, -, rfl⟩ | ⟨-, -, rfl⟩ | ⟨-, -, -, rfl⟩ | ⟨-, -, rfl⟩
  · simp [hrst] at hreset
  · rw [State.tick_inputAt, s.acceptPorts_inputAt hrest]
  all_goals rw [State.tick_inputAt, State.setRegs_env]

/-- An attempt that ends by itself is in `DONE` within its bound. -/
theorem run_reaches_done {n : Nat} {s : State} (hinv : s.Inv) (hends : endsByItself s.regs.st = true)
    (hbound : s.regs.edgesLeft ≤ n) (hrst : s.noResetFor n) :
    ∃ (m : Nat) (s' : State), m ≤ n ∧ run m s = .next s' ∧ s'.regs.st = .done := by
  induction n generalizing s with
  | zero => exact ⟨0, s, le_rfl, rfl, Regs.st_of_edgesLeft_eq_zero hends (Nat.le_zero.mp hbound)⟩
  | succ n ih =>
    by_cases hdone : s.regs.st = .done
    · exact ⟨0, s, Nat.zero_le _, rfl, hdone⟩
    have hnow : s.now.rst = false := hrst 0 n.succ_pos
    obtain ⟨t, hstep⟩ := noStepStopsUnderTheInvariants s hinv
    have hless := step_edgesLeft hinv hnow hends hdone hstep
    obtain ⟨m, s', hm, hrun, hdone'⟩ := ih (everyStepKeepsTheInvariants s t hinv hstep)
      (step_st hnow hstep ▸ transition_endsByItself hends hdone) (by omega)
      (fun k hk => step_inputAt hnow hstep k ▸ hrst (k + 1) (by omega))
    exact ⟨m + 1, s', by omega, (run_succ m hstep).trans hrun, hdone'⟩

/-- Settles O48: `RELEASE_LINE` ends by itself, and its bound is that of R170. -/
theorem everyAttemptEndsWithinItsBudget : Obligations.EveryAttemptEndsWithinItsBudget := by
  intro s hinv hst hrst
  exact run_reaches_done hinv (by rw [hst]; rfl) (by rw [Regs.edgesLeft, hst]) hrst

end Sys2Proof.Machine

/-! PROOFS. The received bits (spec 42_bitloop.md R120, 20_memory.md R45): the threshold law, the order of
the bits in the registers, and what the budget has no part in. -/

namespace Sys2Proof.Machine

/-! ## The threshold law (R120) -/

/-- A cell is long when it exceeds the shortest calibration cell by a quarter at least. -/
theorem Regs.Inv.receivedBit_iff {r : Regs} (h : r.Inv) (hst : r.st = .bitLoop) :
    r.receivedBit = true ↔
      nlz r.fam ≤ r.bitidx.toNat ∧ r.shortest + r.shortest / 4 ≤ r.elapsed := by
  rw [Regs.receivedBit_iff]
  refine and_congr_right fun hdata => ?_
  obtain ⟨hfloor, hmargin⟩ := h.calibrated ((nlz_pos r.fam).trans hdata)
  have hcnt := h.singleBudget (.inr (.inr hst))
  rw [hmargin, Regs.shortest, Regs.elapsed, div4]
  omega

/-! ## The bits in arrival order (R45, R68) -/

/-- Shifting a bit in moves every other bit up by one. -/
theorem getLsbD_of_shifted {v sh : Byte} {b : Level}
    (hv : v.toNat = (2 * sh.toNat + b.toNat) % 256) {i : Nat} (hi : i < 7) :
    v.getLsbD (i + 1) = sh.getLsbD i := by
  have hb := b.toNat_lt
  have hhalf : (2 * sh.toNat + b.toNat) / 2 = sh.toNat := by omega
  rw [BitVec.getLsbD, hv, Nat.testBit_mod_two_pow _ 8, Nat.testBit_succ, hhalf,
    decide_eq_true (by omega), Bool.true_and]
  rfl

/-- Byte `i` of the frame store as a part of `frame_o` (R31, R45). -/
theorem Frame.get_eq_extractLsb' (f : Frame) {i : Nat} (hi : i ≤ 4) :
    f.get i = some (f.word.extractLsb' (32 - 8 * i) 8) := by
  obtain ⟨h0, h1, h2, h3, h4⟩ := f.word_bytes
  interval_cases i
  · exact congrArg some h0.symm
  · exact congrArg some h1.symm
  · exact congrArg some h2.symm
  · exact congrArg some h3.symm
  · exact congrArg some h4.symm

theorem Regs.storedBit_of_stored {r : Regs} {k : Nat} {v : Byte}
    (hlt : k / 8 < r.bitidx.toNat / 8) (hget : r.frame.get (k / 8) = some v) :
    r.storedBit k = v.getLsbD (7 - k % 8) :=
  (if_pos hlt).trans (by rw [hget])

theorem Regs.storedBit_of_open {r : Regs} {k : Nat} (h : ¬ k / 8 < r.bitidx.toNat / 8) :
    r.storedBit k = r.sh.getLsbD (r.bitidx.toNat % 8 - 1 - k % 8) :=
  if_neg h

/-- An edge keeps every bit received before it (R45, R117). -/
theorem edgeWrites.storedBit_of_lt {r r' : Regs} {b : Level} (h : edgeWrites r r' b) {k : Nat}
    (hk : k < r.bitidx.toNat) (hframe : k / 8 ≤ 4) : r'.storedBit k = r.storedBit k := by
  have hbits := h.bitidx
  by_cases hdone : k / 8 < r.bitidx.toNat / 8
  · have hget := r.frame.get_eq_extractLsb' hframe
    have hget' : r'.frame.get (k / 8) = r.frame.get (k / 8) := by
      by_cases hlast : r.bitidx.toNat % 8 = 7
      · exact (h.byteStored hlast).2.2 _ hdone.ne
      · rw [(h.bitShifted hlast).2]
    rw [Regs.storedBit_of_stored hdone hget,
      Regs.storedBit_of_stored (hdone.trans_le (by omega)) (hget'.trans hget)]
  · have hlow : k % 8 < r.bitidx.toNat % 8 := by omega
    have hpos : r.bitidx.toNat % 8 - k % 8 = r.bitidx.toNat % 8 - 1 - k % 8 + 1 := by omega
    rw [Regs.storedBit_of_open hdone]
    by_cases hlast : r.bitidx.toNat % 8 = 7
    · obtain ⟨-, ⟨v, hget, hv⟩, -⟩ := h.byteStored hlast
      have hbyte : r.bitidx.toNat / 8 = k / 8 := by omega
      rw [Regs.storedBit_of_stored (by omega) (hbyte ▸ hget), ← hlast, hpos]
      exact getLsbD_of_shifted hv (by omega)
    · rw [Regs.storedBit_of_open (by omega), show r'.bitidx.toNat % 8 - 1 = r.bitidx.toNat % 8 by omega,
        hpos]
      exact getLsbD_of_shifted (h.bitShifted hlast).1 (by omega)

/-- In a complete frame, bit `k` of the wire is bit `39 - k` of `frame_o`. -/
theorem Regs.storedBit_of_complete {r : Regs} {k : Nat} (hbits : r.bitidx.toNat = 40) (hk : k < 40) :
    r.storedBit k = r.frame.word.getLsbD (39 - k) := by
  have hpos : 32 - 8 * (k / 8) + (7 - k % 8) = 39 - k := by omega
  rw [Regs.storedBit_of_stored (by omega) (r.frame.get_eq_extractLsb' (by omega)),
    BitVec.getLsbD_extractLsb', hpos, decide_eq_true (by omega), Bool.true_and]

/-- Settles O28: an edge stores the received bit, which is the threshold law's, above the kept ones. -/
theorem receivedBitsStandInArrivalOrder : Obligations.ReceivedBitsStandInArrivalOrder := by
  refine ⟨fun s hinv hrst hst hedge => ?_, fun r k => Regs.storedBit_of_complete⟩
  have hbits := hinv.bitidxLoop hst
  have hwrites := Regs.edgeWrites_endCell hbits
  refine ⟨_, step_bitLoop_edge hrst hst hedge (Regs.byteIndex_le_of_bitidx hbits), hwrites.bitidx,
    fun k hk => hwrites.storedBit_of_lt hk (by omega), ?_⟩
  rw [State.tick_regs, State.setRegs_regs, hwrites.storedBit]
  exact Regs.Inv.receivedBit_iff hinv hst

end Sys2Proof.Machine

/-! PROOFS. The budget enters the result only through `Timeout` (spec 42_bitloop.md R120): each operation
of the bit loop and of `VALIDATE` on two attempts that differ in their budget alone. -/

namespace Sys2Proof.Machine

/-! ## The measured lengths after a tick -/

/-- The shortest calibration cell after an edge: the first cell, the shorter one of two, or the one it
was, where the cell that ends is no calibration cell (R113, R115). -/
theorem Regs.Inv.shortest_endCell {r : Regs} (h : r.Inv) (hst : r.st = .bitLoop) :
    r.endCell.shortest =
      if r.bitidx.toNat < nlz r.fam then
        if r.bitidx = 0 then r.elapsed else min r.shortest r.elapsed
      else r.shortest := by
  obtain ⟨-, hT, -⟩ := r.endCell_frame
  have hcnt := h.singleBudget (.inr (.inr hst))
  unfold Regs.shortest Regs.elapsed
  rw [hT]
  by_cases hcal : r.bitidx.toNat < nlz r.fam
  · obtain ⟨hfloor, -⟩ := Regs.endCell_calibrates hcal hcnt
    rw [if_pos hcal, hfloor]
    by_cases hfirst : r.bitidx = 0
    · rw [if_pos hfirst, (h.uncalibrated hfirst).1]
      exact congrArg _ (Nat.zero_max _)
    · rw [if_neg hfirst]
      omega
  · obtain ⟨hfloor, -⟩ := Regs.endCell_keeps_calibration (not_lt.mp hcal)
    rw [if_neg hcal, hfloor]

theorem Regs.elapsed_miss {r : Regs} (hcnt : 1 ≤ r.cnt.toNat) (hmost : r.cnt.toNat ≤ r.T.toNat) :
    Regs.elapsed { r with cnt := r.cnt - 1 } = r.elapsed + 1 := by
  have hless : (r.cnt - 1).toNat = r.cnt.toNat - 1 := BitVec.toNat_sub_of_le hcnt
  simp only [Regs.elapsed, hless]
  omega

theorem Regs.endCell_frame_eq (r : Regs) : r.endCell.frame =
    if r.bitInByte = 7 then r.frame.set r.byteIndex (shiftIn r.sh r.receivedBit) else r.frame := by
  rcases r.endCell_frame_cases with ⟨h, e⟩ | ⟨h, e⟩
  · rw [if_pos h, e]
  · rw [if_neg h, e]

/-! ## Two attempts that differ in their budget alone -/

section TwoBudgets
variable {r q : Regs} (hsame : sameUpToBudget r q)
include hsame

/-- Both receive the same bit (R120). -/
theorem sameUpToBudget.receivedBit (hr : r.Inv) (hq : q.Inv) (hst : r.st = .bitLoop) :
    r.receivedBit = q.receivedBit := by
  rw [Bool.eq_iff_iff, hr.receivedBit_iff hst, hq.receivedBit_iff (hsame.st ▸ hst), hsame.fam,
    hsame.bitidx, hsame.elapsed hst]
  refine and_congr_right fun hdata => ?_
  rw [hsame.shortest (hsame.bitidx ▸ (nlz_pos q.fam).trans hdata)]

/-- An edge measures equal cells of both and stores the same bit. -/
theorem sameUpToBudget.endCell (hr : r.Inv) (hq : q.Inv) (hst : r.st = .bitLoop) :
    sameUpToBudget { r.endCell with prev := false } { q.endCell with prev := false } := by
  have hbit := hsame.receivedBit hr hq hst
  obtain ⟨rfam, rT, -, rerr, rhum, rtneg, rtmag, rpin⟩ := r.endCell_frame
  obtain ⟨qfam, qT, -, qerr, qhum, qtneg, qtmag, qpin⟩ := q.endCell_frame
  obtain ⟨hhum, htneg, htmag⟩ := hsame.reading
  have reload (x : Regs) (hT : x.endCell.T = x.T) : x.endCell.elapsed = 0 := by
    have hcnt : x.endCell.cnt.toNat = x.T.toNat := x.budget_toNat
    rw [Regs.elapsed, hT, hcnt, Nat.sub_self]
  exact {
    st := by
      change r.endCell.st = q.endCell.st
      rw [Regs.endCell_st, Regs.endCell_st, hsame.bitidx, hsame.st]
    fam := rfam.trans (hsame.fam.trans qfam.symm)
    prev := rfl
    bitidx := by
      change r.endCell.bitidx = q.endCell.bitidx
      rw [Regs.endCell_bitidx, Regs.endCell_bitidx, hsame.bitidx]
    sh := by
      change r.endCell.sh = q.endCell.sh
      rw [Regs.endCell_sh, Regs.endCell_sh, hbit, hsame.sh, Regs.bitInByte, Regs.bitInByte,
        hsame.bitidx]
    frame := by
      change r.endCell.frame = q.endCell.frame
      rw [Regs.endCell_frame_eq, Regs.endCell_frame_eq, hbit, hsame.sh, hsame.frame, Regs.bitInByte,
        Regs.bitInByte, Regs.byteIndex, Regs.byteIndex, hsame.bitidx]
    err := rerr.trans (hsame.err.trans qerr.symm)
    reading := ⟨rhum.trans (hhum.trans qhum.symm), rtneg.trans (htneg.trans qtneg.symm),
      rtmag.trans (htmag.trans qtmag.symm)⟩
    pinOe := rpin.trans (hsame.pinOe.trans qpin.symm)
    elapsed := fun _ => (reload r rT).trans (reload q qT).symm
    shortest := fun _ => by
      change r.endCell.shortest = q.endCell.shortest
      rw [hr.shortest_endCell hst, hq.shortest_endCell (hsame.st ▸ hst), hsame.bitidx, hsame.fam,
        hsame.elapsed hst]
      split_ifs with hcal hfirst
      · rfl
      · rw [hsame.shortest (hsame.bitidx ▸ BitVec.toNat_pos_of_ne_zero hfirst)]
      · rw [hsame.shortest (hsame.bitidx ▸ (nlz_pos q.fam).trans (not_lt.mp hcal))] }

/-- A tick without an edge adds one to both measured lengths. -/
theorem sameUpToBudget.countdown (hr : r.Inv) (hq : q.Inv) (hst : r.st = .bitLoop) (sample : Level) :
    sameUpToBudget { r with cnt := r.cnt - 1, prev := sample }
      { q with cnt := q.cnt - 1, prev := sample } :=
  have hst' : q.st = .bitLoop := hsame.st ▸ hst
  have grows {x : Regs} (hx : x.Inv) (hloop : x.st = .bitLoop) :=
    Regs.elapsed_miss (hx.budgetLeft (by rw [hloop]; rfl)) (hx.singleBudget (.inr (.inr hloop)))
  { hsame with
    prev := rfl
    elapsed := fun _ => (grows hr hst).trans
      ((congrArg (· + 1) (hsame.elapsed hst)).trans (grows hq hst').symm) }

/-- One tick at the same sample, unless it is the last of a budget. -/
theorem sameUpToBudget.bitTick (hr : r.Inv) (hq : q.Inv) (hst : r.st = .bitLoop) {sample : Level}
    (her : (r.bitTick sample).err ≠ .timeout) (heq : (q.bitTick sample).err ≠ .timeout) :
    sameUpToBudget (r.bitTick sample) (q.bitTick sample) := by
  by_cases hedge : r.prev = true ∧ sample = false
  · obtain ⟨hprev, rfl⟩ := hedge
    rw [Regs.bitTick_edge hprev, Regs.bitTick_edge (hsame.prev ▸ hprev)]
    exact hsame.endCell hr hq hst
  · rw [Regs.bitTick_no_edge hedge] at her ⊢
    rw [Regs.bitTick_no_edge (hsame.prev ▸ hedge)] at heq ⊢
    rcases r.miss_cases .timeout with ⟨-, e⟩ | ⟨-, e⟩
    · exact absurd (congrArg Regs.err e :) her
    rcases q.miss_cases .timeout with ⟨-, e'⟩ | ⟨-, e'⟩
    · exact absurd (congrArg Regs.err e' :) heq
    rw [e, e']
    exact hsame.countdown hr hq hst sample

/-- `VALIDATE` reads nothing of the budget. -/
theorem sameUpToBudget.validate :
    sameUpToBudget (r.decodeFields.raise r.frame.verdict) (q.decodeFields.raise q.frame.verdict) := by
  rw [Regs.decodeFields_raise, Regs.decodeFields_raise]
  exact { hsame with
    st := rfl
    err := congrArg Frame.verdict hsame.frame
    reading := Regs.decodeFields_congr hsame.fam hsame.frame
    elapsed := fun hloop => St.noConfusion hloop }

end TwoBudgets

/-- The step of `VALIDATE` (R131). -/
theorem step_validate {s : State} (hrst : s.now.rst = false) (hst : s.regs.st = .validate) :
    step s = .next (s.setRegs (s.regs.decodeFields.raise s.regs.frame.verdict)).tick :=
  step_of_exec_next hrst (by rw [hst]; rfl) (by rw [hst]; rfl)

/-- Settles O29: the tick of the bit loop and `VALIDATE` keep two attempts alike. -/
theorem classificationIsIndependentOfTheBudget :
    Obligations.ClassificationIsIndependentOfTheBudget := by
  intro a b a' b' ha hb hsame hst hrsta hrstb hpin hstepa hstepb hea heb
  rcases hst with hst | hst
  · have hst' : b.regs.st = .bitLoop := hsame.st ▸ hst
    rw [step_bitLoop hrsta hst fun _ => Regs.byteIndex_le_of_bitidx (ha.bitidxLoop hst)] at hstepa
    rw [step_bitLoop hrstb hst' fun _ => Regs.byteIndex_le_of_bitidx (hb.bitidxLoop hst')] at hstepb
    obtain rfl := Host.Outcome.next.inj hstepa
    obtain rfl := Host.Outcome.next.inj hstepb
    have hsample : a.sample = b.sample := hpin
    rw [hsample] at hea ⊢
    exact hsame.bitTick ha hb hst hea heb
  · rw [step_validate hrsta hst] at hstepa
    rw [step_validate hrstb (hsame.st ▸ hst)] at hstepb
    obtain rfl := Host.Outcome.next.inj hstepa
    obtain rfl := Host.Outcome.next.inj hstepb
    exact hsame.validate

end Sys2Proof.Machine

/-! PROOFS. The fault of `BIT_LOOP`, the bytes `VALIDATE` decodes, and the environment of a step (spec
20_memory.md R38, R43, R49; 43_validate_decode.md R137, R140; 70_reset_and_hazards.md R182). -/

namespace Sys2Proof.Machine

/-! ## The fault (R38) -/

/-- Settles O30: `BIT_LOOP` faults where it would write outside the frame store. -/
theorem bitLoopFaultsOnlyOutsideTheFrame : Obligations.BitLoopFaultsOnlyOutsideTheFrame := by
  intro s
  have hfault : exec .bitLoop s = .fault .noSuchFrameByte ↔
      s.regs.writesOutsideFrame s.sample = true := by
    rw [exec, execBitLoop]
    split
    next h => exact iff_of_true rfl h
    next h => exact iff_of_false nofun h
  rw [hfault, Regs.writesOutsideFrame_iff, fallingEdge_iff]
  rfl

/-! ## The decoded bytes (R137, R140) -/

/-- Settles O33, from the integer formulas of the decoded fields. -/
theorem readingRanges : Obligations.ReadingRanges := by
  intro s hrst hst
  refine ⟨_, step_validate hrst hst, fun hfam => ?_, fun hfam => ?_⟩ <;>
    simp only [State.tick_regs, State.setRegs_regs, Regs.decodeFields_raise]
  · obtain ⟨hhum, htneg, htmag⟩ := Regs.decodeFields_of_type11 hfam
    exact ⟨⟨_, hhum⟩, by omega, ⟨_, htmag⟩, by omega, htneg⟩
  · obtain ⟨hhum, -, htmag⟩ := s.regs.decode2x_toNat
    rw [Regs.decodeFields_of_ne_type11 hfam]
    omega

/-- Settles O34: by item 8 of R37 byte 0 is below the mask's power of two. -/
theorem maskOnFirstByteChangesNothing : Obligations.MaskOnFirstByteChangesNothing := by
  intro r h
  have hzeros := h.leadingZeros
  refine ⟨fun hfam => ?_, fun hfam => ?_⟩
  · rw [hfam] at hzeros
    exact BitVec.eq_of_toNat_eq ((Byte.and_0x7F_toNat _).trans (Nat.mod_eq_of_lt hzeros))
  · rw [nlz_of_ne_type11 hfam] at hzeros
    exact BitVec.eq_of_toNat_eq ((Byte.and_0x03_toNat _).trans (Nat.mod_eq_of_lt hzeros))

/-! ## What a step does to the environment (R49) -/

theorem illegalCommand_iff (x : Inputs) :
    illegalCommand x = true ↔ x.start = true ∧ (Family.ofCode x.family = none ∨ x.timeout = 0) := by
  simp [illegalCommand, Family.ofCode_eq_none]

/-- At rest the environment changes by the mark alone, and by that at an illegal command. -/
theorem State.acceptPorts_env {s : State} (hrest : resting s.regs.st = true) :
    s.acceptPorts.env = { s.env with marked := s.env.marked || illegalCommand s.now } := by
  rcases s.acceptPorts_cases hrest with ⟨hs, e⟩ | ⟨hs, hbad, e⟩ | ⟨f, -, hf, ht, e⟩ <;> rw [e]
  · have hlegal : illegalCommand s.now = false := by simp [illegalCommand, hs]
    rw [hlegal, Bool.or_false]
  · rw [(illegalCommand_iff _).mpr ⟨hs, hbad⟩, Bool.or_true]
    rfl
  · have hlegal : illegalCommand s.now = false := by
      rw [← Bool.not_eq_true, illegalCommand_iff]
      rintro ⟨-, hnone | hzero⟩
      · simp [hf] at hnone
      · exact ht hzero
    rw [hlegal, Bool.or_false]
    rfl

/-- Every step consumes its edge, and changes the mark at an illegal command to a block at rest only. -/
theorem step_env {s s' : State} (h : step s = .next s') : s'.env = { s.tick.env with
    marked := s.env.marked || (!s.now.rst && resting s.regs.st && illegalCommand s.now) } := by
  have hbusy {st : St} (hst : s.regs.st = st) (hno : resting st = false) (r : Regs) :
      (s.setRegs r).tick.env = { s.tick.env with
        marked := s.env.marked || (!s.now.rst && resting s.regs.st && illegalCommand s.now) } := by
    rw [hst, hno, Bool.and_false, Bool.false_and, Bool.or_false]
    rfl
  rcases step_cases h with ⟨hrst, rfl⟩ | ⟨hrst, hrest, rfl⟩ | ⟨-, hst, rfl⟩ | ⟨-, hst, rfl⟩ |
    ⟨-, hst, rfl⟩ | ⟨-, hst, rfl⟩ | ⟨-, hst, rfl⟩ | ⟨-, hst, -, rfl⟩ | ⟨-, hst, rfl⟩
  · rw [hrst, Bool.not_true, Bool.false_and, Bool.false_and, Bool.or_false]
    rfl
  · rw [hrst, hrest, State.tick, State.acceptPorts_env hrest]
    rfl
  all_goals exact hbusy hst rfl _

/-- Settles O8, field by field of the environment. -/
theorem stepConsumesOneEdgeAndMarksIllegalCommands :
    Obligations.StepConsumesOneEdgeAndMarksIllegalCommands := by
  intro s s' h
  rw [step_env h]
  exact ⟨rfl, rfl, by simp [and_assoc]⟩

/-! ## What a step does not depend on (R43, R182) -/

/-- Settles O17: the accepted command writes every register, from the ports alone. -/
theorem acceptedCommandErasesThePast : Obligations.AcceptedCommandErasesThePast := by
  intro s₁ s₂ henv hrest₁ hrest₂ hrst hcmd
  have hnow : s₂.now = s₁.now := congrArg (Env.inputAt · 0) henv.symm
  obtain ⟨f, hf, hstep₁⟩ := step_legalCommand hrst hrest₁ hcmd
  obtain ⟨g, hg, hstep₂⟩ := step_legalCommand (hnow ▸ hrst) hrest₂ (hnow ▸ hcmd)
  rw [hnow] at hg hstep₂
  obtain rfl : f = g := Family.code_injective (hf.symm.trans hg)
  rw [hstep₁, hstep₂, State.setRegs, State.setRegs, henv]

/-- Two blocks at rest that the end of this clock edge would leave alike take the same step, when `rst`
and the host's ports are alike. -/
theorem step_resting_congr {s t : State} (htick : t.tick = s.tick)
    (hrest : resting s.regs.st = true) (hrst : t.now.rst = s.now.rst)
    (hstart : t.now.start = s.now.start) (hfam : t.now.family = s.now.family)
    (htime : t.now.timeout = s.now.timeout) : step t = step s := by
  have hregs : t.regs = s.regs := (congrArg State.regs htick :)
  have hset (r : Regs) : (t.setRegs r).tick = (s.setRegs r).tick :=
    (congrArg (State.setRegs · r) htick :)
  have hmark : t.mark.tick = s.mark.tick := (congrArg State.mark htick :)
  cases hr : s.now.rst with
  | true =>
    rw [step_reset s hr, step_reset t (hrst.trans hr)]
    exact congrArg _ (hset Regs.reset)
  | false =>
    rw [step_resting s hr hrest, step_resting t (hrst.trans hr) (hregs ▸ hrest)]
    simp only [State.acceptPorts, State.decodeCommand, State.reservedCommand, hregs, hstart, hfam,
      htime, hrest, if_true]
    cases s.now.start with
    | false => exact congrArg _ htick
    | true =>
      cases Family.ofCode s.now.family with
      | none => exact congrArg _ hmark
      | some f =>
        by_cases hzero : s.now.timeout = 0
        · simp only [hzero, if_true, hmark]
        · simp only [hzero, if_true, if_false, hset]

@[simp] theorem State.withPinIn_tick (s : State) (level : Level) : (s.withPinIn level).tick = s.tick :=
  rfl

@[simp] theorem State.withDelayDone_tick (s : State) (level : Level) :
    (s.withDelayDone level).tick = s.tick := rfl

/-- Settles O41: a resting block reads the host's ports alone, and a busy one the wire only where it
polls and the delay's answer only in `START_PULSE`. -/
theorem wireAndDelayAreReadOnlyWhereTheRulesSay :
    Obligations.WireAndDelayAreReadOnlyWhereTheRulesSay := by
  refine ⟨fun s level hpoll => ?_, fun s level hst => ?_⟩
  · cases hrest : resting s.regs.st with
    | true => exact step_resting_congr (s.withPinIn_tick level) hrest rfl rfl rfl rfl
    | false =>
      exact step_busy_congr (s.withPinIn_tick level) hrest rfl (fun h => by simp [hpoll] at h)
        (fun _ => rfl)
  · cases hrest : resting s.regs.st with
    | true => exact step_resting_congr (s.withDelayDone_tick level) hrest rfl rfl rfl rfl
    | false =>
      exact step_busy_congr (s.withDelayDone_tick level) hrest rfl (fun _ => rfl)
        (fun h => absurd h hst)

end Sys2Proof.Machine
